-- ==== Sys2Proof/Word.lean ====
section
/-! DEFINITION. The widths of the block's values (spec/00_scope.md R6, R9, R52) and the names of its
phases (spec/10_state.md R21). Bit 0 is the least significant bit of every value (R9; log 18). -/

namespace Sys2Proof

/-- An 8-bit value: data, control, seed and keystream bytes (R6 `BYTE`). -/
abbrev Byte := BitVec 8

/-- One pin: `rst_n` or `ena` (R12). -/
abbrev Bit := BitVec 1

/-- The inputs sampled at one rising edge, `{r, e, c, d}` (R52). -/
abbrev HostWord := BitVec 18

/-- The controller's state tag (R21). The spec fixes no binary encoding (R8).
`AWAIT_RESEED` and `RESEED_LOADING` are the same values as `awaitSeed` and `seedLoading` (R21; log 27). -/
inductive Phase where
  | idleReset
  | awaitSeed
  | seedLoading
  | running
  | clearing
deriving DecidableEq, Repr

end Sys2Proof
end

