-- ==== Sys2Proof/Machine/State.lean ====
section
/-! DEFINITION. The state of the block (spec/10_state.md R33), the misuse it records (spec/60_exceptions.md
R106), the stops of the model, and the state a run starts from (R36). The block has no memory (R37; log 1). -/

namespace Sys2Proof.Machine

/-- The Keystream Generator's Internal State, in the exact abstract form of R28: `loaded s k` is `step`
applied `k` times to `load(s)`, `cleared` is `CLEAR_STATE`, `undef` is "logically undefined". The count
`k` is unbounded (R70). -/
inductive GenState where
  | undef
  | cleared
  | loaded (s : Byte) (k : Nat)
deriving DecidableEq, Repr

/-- The field that an `M8` names (R106). -/
inductive UnwrittenField where
  | gen
  | winData
  | outReg
deriving DecidableEq, Repr

/-- The codes of R106. -/
inductive MisuseCode where
  | M1 | M2 | M3 | M4 | M5 | M6 | M7 | M8
deriving DecidableEq, Repr

/-- A protocol misuse with the values R106 records for it; `w` is the host word of the faulting edge. -/
inductive Misuse where
  /-- `M1` RESET_SHORT -/
  | resetShort (w : HostWord)
  /-- `M2` ENA_LOW -/
  | enaLow (w : HostWord)
  /-- `M3` RELEASE_CTRL -/
  | releaseCtrl (w : HostWord)
  /-- `M4` SEED_RESERVED -/
  | seedReserved (w : HostWord)
  /-- `M5` RESET_IN_LOADING -/
  | resetInLoading (w : HostWord) (seedCnt : Nat)
  /-- `M6` CTRL_IN_CLEARING -/
  | ctrlInClearing (w : HostWord) (clrCnt : Nat)
  /-- `M7` DATA_UNSTABLE -/
  | dataUnstable (w : HostWord) (winCnt : Fin 8) (winData : Byte)
  /-- `M8` UNDEF_READ -/
  | undefRead (f : UnwrittenField)
deriving DecidableEq, Repr

/-- The code of a recorded misuse (R106). -/
def Misuse.code : Misuse → MisuseCode
  | .resetShort _ => .M1
  | .enaLow _ => .M2
  | .releaseCtrl _ => .M3
  | .seedReserved _ => .M4
  | .resetInLoading _ _ => .M5
  | .ctrlInClearing _ _ => .M6
  | .dataUnstable _ _ _ => .M7
  | .undefRead _ => .M8

/-- What stops the model. A protocol misuse is not here: it is recorded in `State.fault` and the machine
goes on, quiescent (R75, R107; log 15). -/
inductive Fault where
  /-- Raised by `step` alone: there is no further host word, so no further edge; the run has ended (R131).
  Safe: the spec says nothing of what happens then (log 3). -/
  | runEnded
deriving DecidableEq, Repr

/-- Why an instruction has no meaning. -/
inductive Refusal where
  /-- An arm of exec that is not written yet; no arm of this model answers it. Safe: the model stops. -/
  | notModelled (mnemonic : String)
deriving DecidableEq, Repr

/-- The state of the block. The first ten fields are the record of R33; the last three are the model's own. -/
structure State where
  /-- The controller's phase (R21). -/
  phase    : Phase
  /-- Edges spent in `SEED_LOADING` (R22). -/
  seedCnt  : Nat
  /-- Consecutive `NORMAL` edges in `CLEARING` (R23). -/
  clrCnt   : Nat
  /-- Edges taken in the current window (R24). -/
  winCnt   : Fin 8
  /-- The pending-input register; `none` = never written (R25, R33). -/
  winData  : Option Byte
  /-- The pending-output register; `none` = never written (R26, R33). -/
  outReg   : Option Byte
  /-- The generator's Internal State (R27). -/
  gen      : GenState
  /-- Consecutive reset edges, saturating at 3 (R30). -/
  rstCnt   : Fin 4
  /-- The edge just taken produced an output byte (R31). -/
  outValid : Bool
  /-- The first misuse, sticky (R32, R106). -/
  fault    : Option Misuse
  /-- The model's own: the byte that `step()` returned at the edge just taken, if it was called (R73; log 14). -/
  stepOut  : Option Byte
  /-- The model's own: the host words still to be driven, next one first (R131; log 2). -/
  schedule : List HostWord
  /-- The model's own: the number of the next `draw` (R10; log 6). -/
  draws    : Nat
deriving DecidableEq, Repr

/-- The power-on state, from which every run starts (R36, R131; log 4). The counters are "arbitrary" there;
the model takes 0 (log 5). The model's own fields start empty and at 0 (logs 2, 6, 14). -/
def State.reset : State :=
  { phase := .idleReset, seedCnt := 0, clrCnt := 0, winCnt := 0, winData := none, outReg := none,
    gen := .undef, rstCnt := 0, outValid := false, fault := none,
    stepOut := none, schedule := [], draws := 0 }

end Sys2Proof.Machine
end

