-- ==== Sys2Proof/Machine/Flags.lean ====
section
/-! DEFINITION. The block has no status flags, condition codes or predicates (spec/10_state.md R29): no
instruction computes a flag. What stands here are the bookkeeping bits that every edge writes or tests. -/

namespace Sys2Proof.Machine

/-- What every edge writes before its row acts: `out_valid <- 0` (R31, R74). The model's `stepOut` speaks of
the edge just taken only, so it is emptied with it (log 14). -/
def beginEdge (s : State) : State := { s with outValid := false, stepOut := none }

/-- A misuse has been recorded: the state is quiescent (R75). -/
def faulted (s : State) : Bool := s.fault.isSome

/-- `min(rst_cnt + 1, 3)`, the saturating count of consecutive reset edges (R30). -/
def bumpRst (n : Fin 4) : Fin 4 := if n = 3 then 3 else n + 1

end Sys2Proof.Machine
end

