-- ==== Sys2Proof/Config.lean ====
section
/-! DEFINITION. What is fixed for the machine: the constants of R6, the parameters that R7 leaves open,
and the free values (`draw`, R10). An `opaque` constant has no body: nothing can be proved of its value,
so a claim about the model holds for every legal value. -/

namespace Sys2Proof.Config

/-- The control byte "no control action, pass-through" (R6). -/
abbrev NORMAL : Byte := 0x00

/-- The control byte "clear internal state" (R6). -/
abbrev RESET : Byte := 0xFF

/-- The number of edges of a byte window (R6; log 28). -/
abbrev WINDOW : Nat := 8

/-- The number of consecutive reset edges that a reset needs (R6; log 28). -/
abbrev RESET_MIN : Nat := 3

/-- `SEED_SETTLE - 1`: the open parameter, written so that every legal value (≥ 1) is reached (R7, D7; log 9). -/
opaque seedSettlePred : Nat

/-- `CLEAR_SETTLE - 1` (R7, D8; log 9). -/
opaque clearSettlePred : Nat

/-- The number of edges spent in `SEED_LOADING` after the seed-accept edge, any natural ≥ 1 (R7). -/
def SEED_SETTLE : Nat := seedSettlePred + 1

/-- The number of consecutive `NORMAL` edges required in `CLEARING`, any natural ≥ 1 (R7). -/
def CLEAR_SETTLE : Nat := clearSettlePred + 1

/-- The keystream: `KS s k` is the byte that the `(k+1)`-th `step()` after `load(s)` returns (R64).
No law is assumed of it (R68, R69; log 10). -/
opaque KS : Byte → Nat → Byte

/-- The `n`-th `draw(Byte)` on `data_out`, where R18 specifies no value (log 7). -/
opaque freeDataOut : Nat → Byte

/-- The `n`-th `draw(Byte)` on `ctrl_out` (R17; log 7). -/
opaque freeCtrlOut : Nat → Byte

/-- The `n`-th `draw(Byte)` on `ctrl_oe` (R17; log 7). -/
opaque freeCtrlOe : Nat → Byte

/-- What a reset edge leaves in `seed_cnt`: unspecified (R35, U23; log 8). -/
opaque freeSeedCnt : Nat → Nat

/-- What a reset edge leaves in `clr_cnt`: unspecified (R35, U23; log 8). -/
opaque freeClrCnt : Nat → Nat

/-- What a reset edge leaves in `win_cnt`: unspecified (R35, U23; log 8). -/
opaque freeWinCnt : Nat → Fin 8

end Sys2Proof.Config
end

