-- ==== Sys2Proof/Syntax.lean ====
section
/-! DEFINITION. The "instructions" of the block: one constructor for each row of spec/opcode_table.json.
Rows 1 to 17 of the decode table (spec/30_encoding.md R56) carry the fields of the host word that the row
leaves free: `r` = `rst_n`, `c` = `ctrl_in`, `d` = `data_in` (R52). The last three are the generator's
internal operations, which no host word selects (R57; log 14). -/

namespace Sys2Proof

inductive Instr where
  /-- Row 1 `ENA_LOW`: `ena` not asserted (R76). -/
  | enaLow (r : Bit) (c d : Byte)
  /-- Row 2 `RST_EDGE`: the reset line asserted (R77). -/
  | rstEdge (c d : Byte)
  /-- Row 3 `RELEASE_SHORT`: reset released too early (R78). -/
  | releaseShort (c d : Byte)
  /-- Row 4 `RELEASE_CTRL`: reset released with a control byte other than `NORMAL` (R79). -/
  | releaseCtrl (c d : Byte)
  /-- Row 5 `RELEASE`: reset released (R80). -/
  | release (d : Byte)
  /-- Row 6 `AWAIT_NORMAL`: no seed yet (R81). -/
  | awaitNormal (d : Byte)
  /-- Row 7 `SEED_FF`: the reserved value `0xFF` offered as a seed (R82). -/
  | seedFf (d : Byte)
  /-- Row 8 `SEED`: the seed-accept edge, seed `c` (R83). -/
  | seed (c d : Byte)
  /-- Row 9 `LOAD_FF`: `0xFF` during the seed settle (R84). -/
  | loadFf (d : Byte)
  /-- Row 10 `LOAD_TICK`: one settle edge (R85). -/
  | loadTick (c d : Byte)
  /-- Row 11 `RUN_RESET`: the `RESET` command (R86). -/
  | runReset (d : Byte)
  /-- Row 12 `RUN_LATCH`: the first edge of a window (R94). -/
  | runLatch (c d : Byte)
  /-- Row 13 `RUN_UNSTABLE`: the data byte changed inside a window (R95). -/
  | runUnstable (c d : Byte)
  /-- Row 14 `RUN_TICK`: the 2nd to the 7th edge of a window (R96). -/
  | runTick (c d : Byte)
  /-- Row 15 `RUN_STEP`: the 8th edge of a window (R97). -/
  | runStep (c d : Byte)
  /-- Row 16 `CLEAR_BAD`: a control byte other than `NORMAL` during the clear settle (R87). -/
  | clearBad (c d : Byte)
  /-- Row 17 `CLEAR_TICK`: one clear-settle edge (R88). -/
  | clearTick (d : Byte)
  /-- Internal `GEN_LOAD`: `load(s)` (R71). -/
  | genLoad (s : Byte)
  /-- Internal `GEN_CLEAR`: `clear()` (R72). -/
  | genClear
  /-- Internal `GEN_STEP`: `step()` (R73). -/
  | genStep
deriving DecidableEq, Repr

end Sys2Proof
end

