-- ==== Sys2Proof/WellFormed.lean ====
section
/-! DEFINITION. Which terms of `Instr` stand for an edge that their row admits: the restriction each row
of R56 puts on the control byte. What a row asks of the phase and the counters is no matter of the term;
it is `Instr.selectedIn` of Decode.lean. -/

namespace Sys2Proof

/-- The control byte is one of the usable seeds `0x01`..`0xFE` (R53). -/
def usableSeed (c : Byte) : Bool := c != Config.NORMAL && c != Config.RESET

/-- The column `c` of R56. Rows whose control byte is fixed, ignored or absent admit every operand;
`load` is total over all 256 bytes (R71), and a data byte is never restricted (R54). -/
def Instr.wf : Instr → Bool
  | .enaLow _ _ _ => true
  | .rstEdge _ _ => true
  | .releaseShort _ _ => true
  | .releaseCtrl c _ => c != Config.NORMAL
  | .release _ => true
  | .awaitNormal _ => true
  | .seedFf _ => true
  | .seed c _ => usableSeed c
  | .loadFf _ => true
  | .loadTick c _ => c != Config.RESET
  | .runReset _ => true
  | .runLatch c _ => c != Config.RESET
  | .runUnstable c _ => c != Config.RESET
  | .runTick c _ => c != Config.RESET
  | .runStep c _ => c != Config.RESET
  | .clearBad c _ => c != Config.NORMAL
  | .clearTick _ => true
  | .genLoad _ => true
  | .genClear => true
  | .genStep => true

end Sys2Proof
end

