-- ==== Sys2Proof/Decode.lean ====
section
/-! DEFINITION. The host word (R52), the decode of one edge (R56) and, after it, the encoder.
What a word means depends on the phase and on three more fields of the state (the columns `phase` and
`other condition` of R56), so decoding takes them as a `DecodeCtx` (log 11). -/

namespace Sys2Proof

/-- `w[17]`, the sample of `rst_n` (R52). -/
def rOf (w : HostWord) : Bit := w.extractLsb' 17 1

/-- `w[16]`, the sample of `ena` (R52). -/
def eOf (w : HostWord) : Bit := w.extractLsb' 16 1

/-- `w[15:8]`, the sample of `ctrl_in` (R52). -/
def cOf (w : HostWord) : Byte := w.extractLsb' 8 8

/-- `w[7:0]`, the sample of `data_in` (R52). -/
def dOf (w : HostWord) : Byte := w.extractLsb' 0 8

/-- `w = {r, e, c, d}` (R52). -/
def packWord (r e : Bit) (c d : Byte) : HostWord := r ++ e ++ c ++ d

/-- What a row of R56 asks of the state beside the host word. -/
structure DecodeCtx where
  phase   : Phase
  rstCnt  : Fin 4
  winCnt  : Fin 8
  winData : Option Byte
deriving DecidableEq, Repr

/-- The context in which the first host word of a run is decoded (the power-on state of R36; logs 4, 5). -/
def DecodeCtx.powerOn : DecodeCtx :=
  { phase := .idleReset, rstCnt := 0, winCnt := 0, winData := none }

/-- The row of R56 that matches, in the order of R74: `ena`, then `rst_n`, then the phase's own rows.
Total: every word has a row in every context. In `RUNNING`, an unwritten `win_data` differs from every
data byte, so row 13 takes the edge and its meaning reports the read (R34; log 17). -/
def decode (k : DecodeCtx) (w : HostWord) : Instr :=
  if eOf w = 0 then .enaLow (rOf w) (cOf w) (dOf w)
  else if rOf w = 0 then .rstEdge (cOf w) (dOf w)
  else match k.phase with
  | .idleReset =>
      if k.rstCnt.val < Config.RESET_MIN then .releaseShort (cOf w) (dOf w)
      else if cOf w = Config.NORMAL then .release (dOf w)
      else .releaseCtrl (cOf w) (dOf w)
  | .awaitSeed =>
      if cOf w = Config.NORMAL then .awaitNormal (dOf w)
      else if cOf w = Config.RESET then .seedFf (dOf w)
      else .seed (cOf w) (dOf w)
  | .seedLoading =>
      if cOf w = Config.RESET then .loadFf (dOf w)
      else .loadTick (cOf w) (dOf w)
  | .running =>
      if cOf w = Config.RESET then .runReset (dOf w)
      else if k.winCnt = 0 then .runLatch (cOf w) (dOf w)
      else if k.winData ≠ some (dOf w) then .runUnstable (cOf w) (dOf w)
      else if k.winCnt = 7 then .runStep (cOf w) (dOf w)
      else .runTick (cOf w) (dOf w)
  | .clearing =>
      if cOf w = Config.NORMAL then .clearTick (dOf w)
      else .clearBad (cOf w) (dOf w)

/-- Why a number is no host word. -/
inductive DecodeError where
  /-- It has a bit set above bit 17 (R52: a host word is 18 bits). Safe: such a number is no edge (log 12). -/
  | notHostWord
deriving DecidableEq, Repr

/-- Decode any number: a host word to its row, anything wider rejected by name (R52, R60). -/
def decodeNat (k : DecodeCtx) (n : Nat) : Except DecodeError Instr :=
  if n < 2 ^ 18 then .ok (decode k (BitVec.ofNat 18 n)) else .error .notHostWord

/-- The host word that `nbits` bits `w` spell, the bits above `nbits` zero. -/
def hostWordOf (nbits w : Nat) : Option HostWord :=
  if w % 2 ^ nbits < 2 ^ 18 then some (BitVec.ofNat 18 (w % 2 ^ nbits)) else none

/-- What the decoder reads from a word of spec/opcode_table.json, as the first edge after power-on (log 11). -/
def decodeTableWord (nbits w : Nat) : Option Instr :=
  (hostWordOf nbits w).map (decode DecodeCtx.powerOn)

/-! The decode table itself, row by row, and the encoder. -/

/-- One row of the decode table of R56, with the match and mask of spec/opcode_table.json. -/
structure Row where
  /-- The column `#`. -/
  no    : Nat
  /-- The bits the row fixes, and their values. -/
  mask  : HostWord
  bits  : HostWord
  /-- The column `phase`; `none` is "any". -/
  phase : Option Phase
  /-- The column `c`, where mask and match do not say it. -/
  ctrl  : Byte → Bool
  /-- The column `other condition`, of the state and the data byte. -/
  cond  : DecodeCtx → Byte → Bool

/-- The rows 1 to 17 of R56. -/
def decodeRows : List Row :=
  [ ⟨1, 0x10000, 0x00000, none, fun _ => true, fun _ _ => true⟩,
    ⟨2, 0x30000, 0x10000, none, fun _ => true, fun _ _ => true⟩,
    ⟨3, 0x30000, 0x30000, some .idleReset, fun _ => true, fun k _ => k.rstCnt.val < 3⟩,
    ⟨4, 0x30000, 0x30000, some .idleReset, fun c => c != 0x00, fun k _ => k.rstCnt = 3⟩,
    ⟨5, 0x3FF00, 0x30000, some .idleReset, fun _ => true, fun k _ => k.rstCnt = 3⟩,
    ⟨6, 0x3FF00, 0x30000, some .awaitSeed, fun _ => true, fun _ _ => true⟩,
    ⟨7, 0x3FF00, 0x3FF00, some .awaitSeed, fun _ => true, fun _ _ => true⟩,
    ⟨8, 0x30000, 0x30000, some .awaitSeed, fun c => 0x01 ≤ c && c ≤ 0xFE, fun _ _ => true⟩ ] ++
  [ ⟨9, 0x3FF00, 0x3FF00, some .seedLoading, fun _ => true, fun _ _ => true⟩,
    ⟨10, 0x30000, 0x30000, some .seedLoading, fun c => c != 0xFF, fun _ _ => true⟩,
    ⟨11, 0x3FF00, 0x3FF00, some .running, fun _ => true, fun _ _ => true⟩,
    ⟨12, 0x30000, 0x30000, some .running, fun c => c != 0xFF, fun k _ => k.winCnt = 0⟩,
    ⟨13, 0x30000, 0x30000, some .running, fun c => c != 0xFF, fun k d => 1 ≤ k.winCnt.val && k.winData != some d⟩,
    ⟨14, 0x30000, 0x30000, some .running, fun c => c != 0xFF,
      fun k d => 1 ≤ k.winCnt.val && k.winCnt.val ≤ 6 && k.winData == some d⟩,
    ⟨15, 0x30000, 0x30000, some .running, fun c => c != 0xFF, fun k d => k.winCnt = 7 && k.winData == some d⟩,
    ⟨16, 0x30000, 0x30000, some .clearing, fun c => c != 0x00, fun _ _ => true⟩,
    ⟨17, 0x3FF00, 0x30000, some .clearing, fun _ => true, fun _ _ => true⟩ ]

/-- What a row asks of the state: its phase and its other condition, on the data byte `d`. -/
def Row.fits (row : Row) (k : DecodeCtx) (d : Byte) : Bool :=
  (match row.phase with | none => true | some p => p == k.phase) && row.cond k d

/-- The row matches the edge (R56). -/
def Row.admits (row : Row) (k : DecodeCtx) (w : HostWord) : Bool :=
  (w &&& row.mask) == row.bits && row.ctrl (cOf w) && row.fits k (dOf w)

/-- The decode row an instruction stands for (the column `#` of R56); `none` for the internal operations (R57). -/
def Instr.rowNo : Instr → Option Nat
  | .enaLow _ _ _ => some 1
  | .rstEdge _ _ => some 2
  | .releaseShort _ _ => some 3
  | .releaseCtrl _ _ => some 4
  | .release _ => some 5
  | .awaitNormal _ => some 6
  | .seedFf _ => some 7
  | .seed _ _ => some 8
  | .loadFf _ => some 9
  | .loadTick _ _ => some 10
  | .runReset _ => some 11
  | .runLatch _ _ => some 12
  | .runUnstable _ _ => some 13
  | .runTick _ _ => some 14
  | .runStep _ _ => some 15
  | .clearBad _ _ => some 16
  | .clearTick _ => some 17
  | .genLoad _ => none
  | .genClear => none
  | .genStep => none

/-- The host word of an instruction, from the fixed bits of its row (R52, R56); `none` for the internal
operations, which have no encoding (R57). -/
def encode : Instr → Option HostWord
  | .enaLow r c d => some (packWord r 0 c d)
  | .rstEdge c d => some (packWord 0 1 c d)
  | .releaseShort c d => some (packWord 1 1 c d)
  | .releaseCtrl c d => some (packWord 1 1 c d)
  | .release d => some (packWord 1 1 0x00 d)
  | .awaitNormal d => some (packWord 1 1 0x00 d)
  | .seedFf d => some (packWord 1 1 0xFF d)
  | .seed c d => some (packWord 1 1 c d)
  | .loadFf d => some (packWord 1 1 0xFF d)
  | .loadTick c d => some (packWord 1 1 c d)
  | .runReset d => some (packWord 1 1 0xFF d)
  | .runLatch c d => some (packWord 1 1 c d)
  | .runUnstable c d => some (packWord 1 1 c d)
  | .runTick c d => some (packWord 1 1 c d)
  | .runStep c d => some (packWord 1 1 c d)
  | .clearBad c d => some (packWord 1 1 c d)
  | .clearTick d => some (packWord 1 1 0x00 d)
  | .genLoad _ => none
  | .genClear => none
  | .genStep => none

/-- The instruction is one of the 17 rows an edge can select. -/
def Instr.isEdge (i : Instr) : Bool := i.rowNo.isSome

/-- The table's row of an instruction is open in this context: its phase and its other condition hold.
An internal operation is selected in no context (R57). -/
def Instr.selectedIn (i : Instr) (k : DecodeCtx) : Bool :=
  match encode i with
  | none => false
  | some w => decodeRows.any fun row => (some row.no == i.rowNo) && row.fits k (dOf w)

end Sys2Proof
end

