-- ==== Sys2Proof/Machine/Operands.lean ====
section
/-! DEFINITION. The operand forms (spec/30_encoding.md R53, R54, R55). There are two: the whole control byte
and the whole data byte, both unsigned and unextended. No operand is a register, an address or an immediate
(R19, R37). -/

namespace Sys2Proof.Machine

/-- The three classes of control byte (R55). -/
inductive CtrlClass where
  | normal
  | reset
  | other
deriving DecidableEq, Repr

/-- The class of a control byte, decided by its value alone (R55). -/
def ctrlClass (c : Byte) : CtrlClass :=
  if c = Config.NORMAL then .normal else if c = Config.RESET then .reset else .other

/-- The seed operand of a host word: `s = in.ctrl = w[15:8]` (R53). -/
def seedOperand (w : HostWord) : Byte := cOf w

/-- The data operand of a host word: `d = in.data = w[7:0]` (R54). -/
def dataOperand (w : HostWord) : Byte := dOf w

/-- What the decode of an edge reads of the state (R56). -/
def State.decodeCtx (s : State) : DecodeCtx :=
  { phase := s.phase, rstCnt := s.rstCnt, winCnt := s.winCnt, winData := s.winData }

end Sys2Proof.Machine
end

