-- ==== Sys2Proof/Machine/Ops.lean ====
section
/-! DEFINITION. The named operations the meanings share: recording a misuse (the only "exception" of the
block, spec/60_exceptions.md R106, R107; it has no trap entry or return, R110), the generator's three
operations (R63), the reset edge (R77), the two settle counts (R85, R88), the combiner (R98), and taking the
next host word. -/

namespace Sys2Proof.Machine

/-- What an instruction answers. -/
abbrev Result := Host.Outcome State Fault Refusal

/-- `raise Misuse(m)`: record the first misuse and end the edge (R10, R32). The only other write is
`out_valid <- 0`. A misuse already recorded is kept (R32; log 16). -/
def raise (m : Misuse) (s : State) : State :=
  { s with outValid := false, fault := some (s.fault.getD m) }

/-- The generator's `load(s)` (R71). -/
def loadGen (sd : Byte) (s : State) : State := { s with gen := .loaded sd 0 }

/-- The generator's `clear()` (R72). -/
def clearGen (s : State) : State := { s with gen := .cleared }

/-- The generator's `step()` on its own state: the byte it returns and the state it leaves; `none` where no
load has gone before (R73). -/
def genNext : GenState → Option (Byte × GenState)
  | .undef => none
  | .cleared => none
  | .loaded sd k => some (Config.KS sd k, .loaded sd (k + 1))

/-- The generator's `step()`: the byte it returns and the state after it (R73). -/
def stepGen (s : State) : Option (Byte × State) :=
  (genNext s.gen).map fun p => (p.1, { s with gen := p.2, stepOut := some p.1 })

/-- The combiner: 8-bit bitwise exclusive-or (R98). -/
def combine (a b : Byte) : Byte := a ^^^ b

/-- A reset edge (R77). `win_data`, `out_reg` and `fault` are unchanged, the three counters are unspecified
after it (R35, U23, D29): free values (log 8). -/
def resetEdge (s : State) : State :=
  { s with
    phase := .idleReset
    gen := .undef
    rstCnt := bumpRst s.rstCnt
    seedCnt := Config.freeSeedCnt s.draws
    clrCnt := Config.freeClrCnt s.draws
    winCnt := Config.freeWinCnt s.draws }

/-- One edge of the seed settle of `settle` edges (R85 `LoadTick`). -/
def loadSettle (settle : Nat) (s : State) : State :=
  if s.seedCnt + 1 = settle then { s with phase := .running, winCnt := 0 }
  else { s with seedCnt := s.seedCnt + 1 }

/-- One edge of the clear settle of `settle` edges (R88 `ClearTick`). -/
def clearSettle (settle : Nat) (s : State) : State :=
  if s.clrCnt + 1 = settle then { s with phase := .awaitSeed }
  else { s with clrCnt := s.clrCnt + 1 }

/-- The next host word the host drives, and the state in which its edge is taken: the schedule without it,
and a new number for the draws of this edge (R49, R121; logs 2, 6). -/
def takeWord (s : State) : Option (HostWord × State) :=
  match s.schedule with
  | [] => none
  | w :: rest => some (w, { s with schedule := rest, draws := s.draws + 1 })

end Sys2Proof.Machine
end

