-- ==== Sys2Proof/Machine/Combiner.lean ====
section
/-! DEFINITION. The byte window and the XOR combiner (spec/42_byte_combiner.md): rows 12 to 15 of R56. In all
of them the control byte has no effect (R89). -/

namespace Sys2Proof.Machine

/-- `RUN_LATCH` (R94): the window's byte is the sample of this edge. -/
def execRunLatch (_c d : Byte) (s : State) : Result :=
  .next { beginEdge s with winData := some d, winCnt := 1 }

/-- `RUN_UNSTABLE` (R95): `M7`. Where nothing has written `win_data` there is no byte to differ from: `M8`
(R34; log 17). -/
def execRunUnstable (c d : Byte) (s : State) : Result :=
  match s.winData with
  | none => .next (raise (.undefRead .winData) (beginEdge s))
  | some b => .next (raise (.dataUnstable (packWord 1 1 c d) s.winCnt b) (beginEdge s))

/-- `RUN_TICK` (R96). -/
def execRunTick (_c _d : Byte) (s : State) : Result :=
  .next { beginEdge s with winCnt := s.winCnt + 1 }

/-- `RUN_STEP` (R97): one `step()`, and the output byte `win_data XOR ks`. A generator that holds no load, or a
`win_data` that nothing has written, is `M8`, and the edge then writes nothing else (R10, R34, R73). -/
def execRunStep (_c _d : Byte) (s : State) : Result :=
  match stepGen (beginEdge s), s.winData with
  | none, _ => .next (raise (.undefRead .gen) (beginEdge s))
  | some _, none => .next (raise (.undefRead .winData) (beginEdge s))
  | some (ks, t), some b => .next { t with outReg := some (combine b ks), outValid := true, winCnt := 0 }

end Sys2Proof.Machine
end

