-- ==== Sys2Proof/Machine/Controller.lean ====
section
/-! DEFINITION. The Protocol Controller's rows (spec/41_protocol_controller.md): rows 1 to 11, 16 and 17 of
R56. Each meaning is the row's pseudocode after `out_valid <- 0` (R74). The row's conditions on phase and
counters are the decode's and are not tested again (log 13). -/

namespace Sys2Proof.Machine

/-- `ENA_LOW` (R76): `M2`. -/
def execEnaLow (r : Bit) (c d : Byte) (s : State) : Result :=
  .next (raise (.enaLow (packWord r 0 c d)) (beginEdge s))

/-- `RST_EDGE` (R77). The control and data bytes are ignored. -/
def execRstEdge (_c _d : Byte) (s : State) : Result := .next (resetEdge (beginEdge s))

/-- `RELEASE_SHORT` (R78): `M1`. -/
def execReleaseShort (c d : Byte) (s : State) : Result :=
  .next (raise (.resetShort (packWord 1 1 c d)) (beginEdge s))

/-- `RELEASE_CTRL` (R79): `M3`. -/
def execReleaseCtrl (c d : Byte) (s : State) : Result :=
  .next (raise (.releaseCtrl (packWord 1 1 c d)) (beginEdge s))

/-- `RELEASE` (R80). -/
def execRelease (_d : Byte) (s : State) : Result :=
  .next { beginEdge s with phase := .awaitSeed, rstCnt := 0 }

/-- `AWAIT_NORMAL` (R81): no state change but `out_valid <- 0`. -/
def execAwaitNormal (_d : Byte) (s : State) : Result := .next (beginEdge s)

/-- `SEED_FF` (R82): `M4`. -/
def execSeedFf (d : Byte) (s : State) : Result :=
  .next (raise (.seedReserved (packWord 1 1 Config.RESET d)) (beginEdge s))

/-- `SEED` (R83): the seed is the control byte of this edge. -/
def execSeed (c _d : Byte) (s : State) : Result :=
  .next { loadGen c (beginEdge s) with phase := .seedLoading, seedCnt := 0 }

/-- `LOAD_FF` (R84): `M5`. -/
def execLoadFf (d : Byte) (s : State) : Result :=
  .next (raise (.resetInLoading (packWord 1 1 Config.RESET d) s.seedCnt) (beginEdge s))

/-- `LOAD_TICK` (R85). The control and data bytes are ignored. -/
def execLoadTick (_c _d : Byte) (s : State) : Result :=
  .next (loadSettle Config.SEED_SETTLE (beginEdge s))

/-- `RUN_RESET` (R86): the state clear, at any `win_cnt`; the data byte is ignored. -/
def execRunReset (_d : Byte) (s : State) : Result :=
  .next { clearGen (beginEdge s) with phase := .clearing, clrCnt := 0, winCnt := 0 }

/-- `CLEAR_BAD` (R87): `M6`. -/
def execClearBad (c d : Byte) (s : State) : Result :=
  .next (raise (.ctrlInClearing (packWord 1 1 c d) s.clrCnt) (beginEdge s))

/-- `CLEAR_TICK` (R88). The data byte is ignored. -/
def execClearTick (_d : Byte) (s : State) : Result :=
  .next (clearSettle Config.CLEAR_SETTLE (beginEdge s))

end Sys2Proof.Machine
end

