-- ==== Sys2Proof/Machine/Generator.lean ====
section
/-! DEFINITION. The Keystream Generator (spec/40_keystream_generator.md): the meanings of its three internal
operations, and the concrete generators of R7 that the abstract state of R28 stands for. -/

namespace Sys2Proof.Machine

/-- `GEN_LOAD` (R71). -/
def execGenLoad (sd : Byte) (s : State) : Result := .next (loadGen sd s)

/-- `GEN_CLEAR` (R72). -/
def execGenClear (s : State) : Result := .next (clearGen s)

/-- `GEN_STEP` (R73). The byte it returns is `stepOut` (log 14). Stepping a generator that holds no load is
`M8` and no value. -/
def execGenStep (s : State) : Result :=
  match stepGen s with
  | none => .next (raise (.undefRead .gen) s)
  | some p => .next p.2

/-- `n` steps of the abstract generator: the bytes returned, first one first, and the state left (R65). -/
def genRun : Nat → GenState → Option (List Byte × GenState)
  | 0, g => some ([], g)
  | n + 1, g =>
    match genNext g with
    | none => none
    | some (b, g') => (genRun n g').map fun p => (b :: p.1, p.2)

/-- The parameters of R7 that stand behind `KS`: `gen_load`, `gen_step` and `CLEAR_STATE` over a type of
internal states. -/
structure Generator (Sigma : Type) where
  load : Byte → Sigma
  step : Sigma → Sigma × Byte
  clearState : Sigma

/-- `sigma(s, k)`: the state after `load(s)` and `k` steps (R64). -/
def Generator.sigma {Sigma : Type} (G : Generator Sigma) (sd : Byte) : Nat → Sigma
  | 0 => G.load sd
  | k + 1 => (G.step (G.sigma sd k)).1

/-- `KS(s, k)`: the byte that the `(k+1)`-th step after `load(s)` returns (R64). -/
def Generator.keystream {Sigma : Type} (G : Generator Sigma) (sd : Byte) (k : Nat) : Byte :=
  (G.step (G.sigma sd k)).2

/-- The internal state that an abstract state stands for (R28); `undef` stands for none. -/
def Generator.concrete {Sigma : Type} (G : Generator Sigma) : GenState → Option Sigma
  | .undef => none
  | .cleared => some G.clearState
  | .loaded sd k => some (G.sigma sd k)

/-- `n` steps of a concrete generator: the bytes returned, first one first, and the state left. -/
def Generator.run {Sigma : Type} (G : Generator Sigma) : Nat → Sigma → List Byte × Sigma
  | 0, x => ([], x)
  | n + 1, x =>
    let y := G.step x
    let z := G.run n y.1
    (y.2 :: z.1, z.2)

end Sys2Proof.Machine
end

