-- ==== Sys2Proof/Machine/Dispatch.lean ====
section
/-! DEFINITION. One arm for each instruction: its meaning. -/

namespace Sys2Proof.Machine

def exec (i : Instr) (s : State) : Host.Outcome State Fault Refusal :=
  match i with
  | .enaLow r c d => Sys2Proof.Machine.execEnaLow r c d s
  | .rstEdge c d => Sys2Proof.Machine.execRstEdge c d s
  | .releaseShort c d => Sys2Proof.Machine.execReleaseShort c d s
  | .releaseCtrl c d => Sys2Proof.Machine.execReleaseCtrl c d s
  | .release d => Sys2Proof.Machine.execRelease d s
  | .awaitNormal d => Sys2Proof.Machine.execAwaitNormal d s
  | .seedFf d => Sys2Proof.Machine.execSeedFf d s
  | .seed c d => Sys2Proof.Machine.execSeed c d s
  | .loadFf d => Sys2Proof.Machine.execLoadFf d s
  | .loadTick c d => Sys2Proof.Machine.execLoadTick c d s
  | .runReset d => Sys2Proof.Machine.execRunReset d s
  | .runLatch c d => Sys2Proof.Machine.execRunLatch c d s
  | .runUnstable c d => Sys2Proof.Machine.execRunUnstable c d s
  | .runTick c d => Sys2Proof.Machine.execRunTick c d s
  | .runStep c d => Sys2Proof.Machine.execRunStep c d s
  | .clearBad c d => Sys2Proof.Machine.execClearBad c d s
  | .clearTick d => Sys2Proof.Machine.execClearTick d s
  | .genLoad sd => Sys2Proof.Machine.execGenLoad sd s
  | .genClear => Sys2Proof.Machine.execGenClear s
  | .genStep => Sys2Proof.Machine.execGenStep s

end Sys2Proof.Machine
end

