-- ==== Sys2Proof/Machine/Edge.lean ====
section
/-! DEFINITION. One rising edge (spec/41_protocol_controller.md R74). -/

namespace Sys2Proof.Machine

/-- The edge with inputs `w`: nothing where a misuse has been recorded (R75), else the row that matches. -/
def edge (w : HostWord) (s : State) : Result :=
  if faulted s then .next s else exec (decode s.decodeCtx w) s

/-- The state in which the host drives `w` next: it replaces the next host word of the schedule. -/
def driveNext (w : HostWord) (s : State) : State := { s with schedule := w :: s.schedule.tail }

end Sys2Proof.Machine
end

