-- ==== Sys2Proof/Machine/Step.lean ====
section
/-! DEFINITION. One step of the machine is one rising edge of `clk` (spec/00_scope.md R11). -/

namespace Sys2Proof.Machine

/-- Take the next host word and its edge. Where the host has none left, the run has ended (R131; log 3). -/
def step (s : State) : Host.Outcome State Fault Refusal :=
  match takeWord s with
  | none => .fault .runEnded
  | some (w, t) => edge w t

/-- The state whose next edge has the host word that the `nbits` bits `w` spell (log 2). A number that is no
host word changes nothing (log 12). -/
def State.withFetchWord (s : State) (nbits w : Nat) : State :=
  match hostWordOf nbits w with
  | none => s
  | some x => driveNext x s

end Sys2Proof.Machine
end

