-- ==== Sys2Proof/Machine/Pins.lean ====
section
/-! DEFINITION. The output pins (spec/10_state.md R17, R18) and the observation point
(spec/70_reset_and_hazards.md R122). No rule of the step reads any of them. -/

namespace Sys2Proof.Machine

/-- What the host sees on `data_out` at an observation point: `out_reg` while `out_valid` is 1, a draw
otherwise (R18; log 7). -/
def State.dataOut (s : State) : Byte :=
  if s.outValid then s.outReg.getD (Config.freeDataOut s.draws) else Config.freeDataOut s.draws

/-- The output half of the shared `ctrl` path: a draw (R17; log 7). -/
def State.ctrlOut (s : State) : Byte := Config.freeCtrlOut s.draws

/-- The output enable of the shared `ctrl` path: a draw (R17; log 7). -/
def State.ctrlOe (s : State) : Byte := Config.freeCtrlOe s.draws

/-- Reading `data_out` takes no edge and changes nothing of the block (R43, R61). The draw counter moves on,
so that a second reading is a second draw (log 29). An output register that nothing has written is `M8`,
not a value (R34; log 17). -/
def State.observe (s : State) : Byte × State :=
  (s.dataOut,
    let t := { s with draws := s.draws + 1 }
    if s.outValid && s.outReg.isNone then raise (.undefRead .outReg) t else t)

end Sys2Proof.Machine
end

