-- ==== Sys2Proof/Machine/Schedule.lean ====
section
/-! DEFINITION. Host schedules (spec/30_encoding.md R61), the pseudo-instructions with their expansions (R62),
and the run of a schedule with its result (spec/70_reset_and_hazards.md R131). -/

namespace Sys2Proof.Machine

/-- One statement of a host schedule (R61): an edge with a host word, or an observation point. -/
inductive Stmt where
  | edge (w : HostWord)
  | obs
deriving DecidableEq, Repr

/-- `E r e c d` (R61). -/
def stmtE (r e : Bit) (c d : Byte) : Stmt := .edge (packWord r e c d)

/-- `RSTLOW n` (R62). -/
def rstLow (n : Nat) : List Stmt := List.replicate n (stmtE 0 1 0x00 0x00)

/-- `RELEASE` (R62). -/
def releaseStmts : List Stmt := [stmtE 1 1 0x00 0x00]

/-- `NOP n` (R62). -/
def nop (n : Nat) : List Stmt := List.replicate n (stmtE 1 1 0x00 0x00)

/-- `SEED s` (R62): the seed-accept edge, then the settle edges with the seed still held. -/
def seedStmts (sd : Byte) : List Stmt :=
  stmtE 1 1 sd 0x00 :: List.replicate Config.SEED_SETTLE (stmtE 1 1 sd 0x00)

/-- `BYTE d` (R62): one full window on `d`, then the reading. -/
def byteStmts (d : Byte) : List Stmt :=
  List.replicate Config.WINDOW (stmtE 1 1 0x00 d) ++ [.obs]

/-- `CLEAR` (R62): the state clear and its settle edges. -/
def clearStmts : List Stmt :=
  stmtE 1 1 0xFF 0x00 :: List.replicate Config.CLEAR_SETTLE (stmtE 1 1 0x00 0x00)

/-- `BOOT` (R62): a full reset into `AWAIT_SEED`. -/
def boot : List Stmt := rstLow 3 ++ releaseStmts

/-- One `BYTE` for each byte of a message, in order (R39). -/
def messageStmts (ds : List Byte) : List Stmt := ds.flatMap byteStmts

/-- The edges of a list of host words, one after the other (R74, R131), stopping at the first fault or refusal. -/
def edges : List HostWord → State → Result
  | [], s => .next s
  | w :: ws, s =>
    match edge w s with
    | .next t => edges ws t
    | .fault f => .fault f
    | .refused r => .refused r

/-- `n` edges on the host words that the state's own schedule holds, stopping at the first fault or refusal. -/
def stepN : Nat → State → Result
  | 0, s => .next s
  | n + 1, s =>
    match step s with
    | .next t => stepN n t
    | .fault f => .fault f
    | .refused r => .refused r

/-- A run so far: the state, and the values read at the observation points, first one first (R131). -/
structure Run where
  state  : State
  result : List Byte
deriving DecidableEq, Repr

/-- One statement: an edge is one step of the machine on that host word, an observation reads `data_out`. -/
def runStmt (x : Run) : Stmt → Host.Outcome Run Fault Refusal
  | .edge w =>
    match step (driveNext w x.state) with
    | .next t => .next { x with state := t }
    | .fault f => .fault f
    | .refused r => .refused r
  | .obs => .next { state := x.state.observe.2, result := x.result ++ [x.state.observe.1] }

/-- A whole schedule. -/
def runSchedule : List Stmt → Run → Host.Outcome Run Fault Refusal
  | [], x => .next x
  | st :: rest, x =>
    match runStmt x st with
    | .next y => runSchedule rest y
    | .fault f => .fault f
    | .refused r => .refused r

end Sys2Proof.Machine
end

