-- ==== Sys2Proof/Safety.lean ====
section
/-! DEFINITION. What a good run is (spec/70_reset_and_hazards.md R131), the state after boot (R119), and the
invariant that every reachable state meets: the ranges and the "never reads an unwritten field" of
spec/10_state.md R22 to R24, R34 and spec/41_protocol_controller.md R91. -/

namespace Sys2Proof.Machine

/-- A good end of run: no misuse is recorded (R131). -/
def State.good (s : State) : Prop := s.fault = none

/-- An edge with `ena = 1` and `rst_n = 1`: the phase's own rows decide (R74). -/
def Live (w : HostWord) : Prop := eOf w = 1 ∧ rOf w = 1

/-- A `RUNNING` or `SEED_LOADING` edge on which the control byte has no effect (R59). -/
def Quiet (w : HostWord) : Prop := Live w ∧ cOf w ≠ Config.RESET

/-- A live edge with the control byte `NORMAL` (R55). -/
def NormalEdge (w : HostWord) : Prop := Live w ∧ cOf w = Config.NORMAL

/-- A reset edge with `ena` asserted (R77). -/
def ResetEdge (w : HostWord) : Prop := eOf w = 1 ∧ rOf w = 0

/-- The record of R33, the complete state that the spec gives the block, without the model's own fields. -/
structure Record where
  phase    : Phase
  seedCnt  : Nat
  clrCnt   : Nat
  winCnt   : Fin 8
  winData  : Option Byte
  outReg   : Option Byte
  gen      : GenState
  rstCnt   : Fin 4
  outValid : Bool
  fault    : Option Misuse
deriving DecidableEq, Repr

/-- The record of a state (R33). -/
def State.record (s : State) : Record :=
  { phase := s.phase, seedCnt := s.seedCnt, clrCnt := s.clrCnt, winCnt := s.winCnt, winData := s.winData,
    outReg := s.outReg, gen := s.gen, rstCnt := s.rstCnt, outValid := s.outValid, fault := s.fault }

/-- Two states that a host cannot tell apart by what the spec specifies of them: they differ at most in the
values a misuse recorded, with the same code (R106: the model's bookkeeping, 10_state.md section 3), and, in
`IDLE_RESET`, in the three counters, which are unspecified there (R35, D29; log 6). -/
def SameButRecord (t u : State) : Prop :=
  t = { u with fault := t.fault, seedCnt := t.seedCnt, clrCnt := t.clrCnt, winCnt := t.winCnt } ∧
  t.fault.map Misuse.code = u.fault.map Misuse.code ∧
  (t.phase ≠ .idleReset → t.seedCnt = u.seedCnt ∧ t.clrCnt = u.clrCnt ∧ t.winCnt = u.winCnt)

/-- The entry state after boot, in the fields R119 names. -/
structure AfterBoot (s : State) : Prop where
  phase    : s.phase = .awaitSeed
  gen      : s.gen = .undef
  outValid : s.outValid = false
  rstCnt   : s.rstCnt = 0
  fault    : s.fault = none

/-- What the generator holds in each phase (R34, R77, R83, R86, R88, R91). -/
def GenFits : Phase → GenState → Prop
  | .idleReset, g => g = .undef
  | .awaitSeed, g => g = .undef ∨ g = .cleared
  | .seedLoading, g => ∃ sd, usableSeed sd = true ∧ g = .loaded sd 0
  | .running, g => ∃ sd k, usableSeed sd = true ∧ g = .loaded sd k
  | .clearing, g => g = .cleared

/-- The invariant of the reachable states. -/
structure Inv (s : State) : Prop where
  /-- The generator holds what its phase says; in particular it is stepped only where loaded (R34). -/
  gen : GenFits s.phase s.gen
  /-- `seed_cnt` runs from 0 to `SEED_SETTLE - 1` while it has meaning (R22). -/
  seedCnt : s.phase = .seedLoading → s.seedCnt < Config.SEED_SETTLE
  /-- `clr_cnt` runs from 0 to `CLEAR_SETTLE - 1` while it has meaning (R23). -/
  clrCnt : s.phase = .clearing → s.clrCnt < Config.CLEAR_SETTLE
  /-- Inside a window the pending-input register has been written (R34). -/
  winData : s.phase = .running → s.winCnt ≠ 0 → s.winData.isSome = true
  /-- `rst_cnt` is 0 once `IDLE_RESET` is left (R30). -/
  rstCnt : s.phase ≠ .idleReset → s.rstCnt = 0
  /-- An output is shown only where one has just been written, at the end of a window (R31, R34). -/
  output : s.outValid = true →
    s.phase = .running ∧ s.winCnt = 0 ∧ s.outReg.isSome = true ∧ s.fault = none
  /-- `step()` was called at the edge just taken exactly where that edge produced an output (R97). -/
  stepOut : s.stepOut.isSome = s.outValid
  /-- No unwritten field has been read (R34, R106). -/
  noUndefRead : ∀ f, s.fault ≠ some (.undefRead f)

end Sys2Proof.Machine
end

