-- ==== Sys2Proof/Certificates/Slice0/Obligations.lean ====
section
/-! DEFINITION. The statements for the provers. A statement whose rule the spec marks as its own decision
(`[decision: see 92_eei_decisions.md Dn]`) or as derived says so in its docstring and has basis 'derived'. -/

open Sys2Proof Sys2Proof.Machine

/-! ## The Keystream Generator (40_keystream_generator.md) -/

/-- R71: `load(s)` sets `LOADED(s, 0)` for every one of the 256 seeds and from every state, and nothing else; only
decode row 8 invokes it, and only with a seed in `0x01`..`0xFE`. -/
def Obligations.GenLoadSetsIndexZeroFromEveryState : Prop :=
  (∀ (sd : Byte) (s : State), ∃ t, exec (.genLoad sd) s = .next t ∧
    t.record = { s.record with gen := .loaded sd 0 }) ∧
  (∀ (k : DecodeCtx) (w : HostWord) (c d : Byte), decode k w = .seed c d → 0x01 ≤ c ∧ c ≤ 0xFE) ∧
  (∀ (c d : Byte) (s : State), ∃ t, exec (.seed c d) s = .next t ∧ t.gen = .loaded c 0) ∧
  (∀ (i : Instr) (s t : State), i.isEdge = true → (∀ c d, i ≠ .seed c d) → exec i s = .next t →
    t.gen = s.gen ∨ t.gen = .undef ∨ t.gen = .cleared ∨
      ∃ sd k, s.gen = .loaded sd k ∧ t.gen = .loaded sd (k + 1))

/-- GEN_CLEAR (40 section 2; the spec's own decision D16 is that `CLEAR_STATE` is never looked into): `clear()`
sets `CLEARED` from every state, and of the edges only RUN_RESET makes a generator `CLEARED`. -/
def Obligations.GenClearSetsClearedFromEveryState : Prop :=
  (∀ s : State, exec .genClear s = .next { s with gen := .cleared }) ∧
  (∀ (i : Instr) (s t : State), i.isEdge = true → (∀ d, i ≠ .runReset d) → exec i s = .next t →
    t.gen = .cleared → s.gen = .cleared)

/-- R73: `step()` on `LOADED(s, k)` returns `KS(s, k)` and leaves `LOADED(s, k + 1)`, and nothing else changes; on
any other state it is `M8` and no value; of the edges only RUN_STEP moves a load on, at the last edge of a window,
and the count grows without bound. -/
def Obligations.GenStepReturnsTheNextKeystreamByte : Prop :=
  (∀ (sd : Byte) (k : Nat), genNext (.loaded sd k) = some (Config.KS sd k, .loaded sd (k + 1))) ∧
  (∀ (sd : Byte) (k : Nat) (s : State), s.gen = .loaded sd k → ∃ t, exec .genStep s = .next t ∧
    t.record = { s.record with gen := .loaded sd (k + 1) }) ∧
  (∀ s : State, s.gen = .undef ∨ s.gen = .cleared → s.fault = none → genNext s.gen = none ∧
    ∃ t, exec .genStep s = .next t ∧
      t.record = { s.record with outValid := false, fault := some (.undefRead .gen) }) ∧
  (∀ (i : Instr) (s t : State) (sd : Byte) (k : Nat), i.isEdge = true → exec i s = .next t →
    s.gen = .loaded sd k → t.gen = .loaded sd (k + 1) → ∃ c d, i = .runStep c d) ∧
  (∀ (k : DecodeCtx) (w : HostWord) (c d : Byte), decode k w = .runStep c d → k.winCnt = 7)

/-- The byte that `step()` returned at an edge stands in the model's own field `stepOut`, for GEN_STEP and for
RUN_STEP, the only edge that calls `step()`: an edge leaves the byte `x` there exactly where it is a RUN_STEP on a load
whose next keystream byte is `x`, with a data byte to combine it with, and empties the field everywhere else
(40_keystream_generator.md section 2; the field is the model's choice, log 14). -/
def Obligations.StepOutHoldsTheReturnedByte : Prop :=
  (∀ (sd : Byte) (k : Nat) (s : State), s.gen = .loaded sd k → exec .genStep s =
    .next { s with gen := .loaded sd (k + 1), stepOut := some (Config.KS sd k) }) ∧
  (∀ (c d b sd : Byte) (k : Nat) (s : State), s.gen = .loaded sd k → s.winData = some b →
    ∃ t, exec (.runStep c d) s = .next t ∧ t.stepOut = some (Config.KS sd k)) ∧
  (∀ (i : Instr) (s t : State) (x : Byte), i.isEdge = true → exec i s = .next t →
    (t.stepOut = some x ↔ i.rowNo = some 15 ∧ s.winData.isSome = true ∧
      ∃ sd k, s.gen = .loaded sd k ∧ x = Config.KS sd k))

/-- R65, R67: after `load(s)`, whatever the generator held before, `n` steps return `KS(s, 0) .. KS(s, n-1)` and
leave the same internal state, `LOADED(s, n)`; `genRun` takes the steps of GEN_STEP. -/
def Obligations.KeystreamRestartsAtEveryLoad : Prop :=
  (∀ (sd : Byte) (s : State) (n : Nat), ∃ t, exec (.genLoad sd) s = .next t ∧
    genRun n t.gen = some ((List.range n).map (Config.KS sd), .loaded sd n)) ∧
  (∀ (s : State) (b : Byte) (g : GenState), genNext s.gen = some (b, g) →
    ∃ t, exec .genStep s = .next t ∧ t.gen = g)

/-- The abstract generator state is exact (10_state.md section 2, `gen`; the spec marks it as derived, and the
choice of `KS` as a parameter as its decision D15): every concrete generator whose keystream is `KS` returns the
same bytes and goes through the states that the abstract ones stand for. -/
def Obligations.AbstractGeneratorRefinesEveryConcreteOne : Prop :=
  ∀ (Sigma : Type) (G : Generator Sigma), (∀ sd k, G.keystream sd k = Config.KS sd k) →
    (∀ (sd : Byte) (n : Nat),
      G.run n (G.load sd) = ((List.range n).map (Config.KS sd), G.sigma sd n)) ∧
    (∀ (g g' : GenState) (b : Byte) (x : Sigma), genNext g = some (b, g') → G.concrete g = some x →
      (G.step x).2 = b ∧ G.concrete g' = some (G.step x).1)

/-- R66: no data byte, no control byte other than the loaded seed and no count of edges other than the step
count enters the keystream: any two edges that step generators holding the same load, in whatever states and on
whatever inputs, leave the same generator state and combine their data with the same byte `KS(s, k)`. -/
def Obligations.KeystreamDependsOnSeedAndIndexOnly : Prop :=
  ∀ (s s' t t' : State) (w w' : HostWord), s.gen = s'.gen → s.fault = none → s'.fault = none →
    edge w s = .next t → edge w' s' = .next t' → t.outValid = true → t'.outValid = true →
    t.gen = t'.gen ∧ ∃ sd k b b', s.gen = .loaded sd k ∧ s.winData = some b ∧ s'.winData = some b' ∧
      t.outReg = some (b ^^^ Config.KS sd k) ∧ t'.outReg = some (b' ^^^ Config.KS sd k)

/-! ## Encoding (30_encoding.md) -/

/-- The layout of the host word (30 section 1; the spec's own packing, decision D19): `w = {r, e, c, d}` with the
two printed examples. -/
def Obligations.HostWordIsItsFourFields : Prop :=
  (∀ (r e : Bit) (c d : Byte), (packWord r e c d).toNat =
    r.toNat * 2 ^ 17 + e.toNat * 2 ^ 16 + c.toNat * 2 ^ 8 + d.toNat) ∧
  (∀ w : HostWord, packWord (rOf w) (eOf w) (cOf w) (dOf w) = w) ∧
  packWord 1 1 0xBB 0x35 = 0x3BB35 ∧ packWord 0 1 0x00 0x00 = 0x10000

/-- R55: the three classes of control byte, decided by the value alone; on a live edge the class, the phase and
the data byte decide the row. -/
def Obligations.ControlByteClassesAreDecidedByValue : Prop :=
  (∀ c : Byte, (ctrlClass c = .normal ↔ c = 0x00) ∧ (ctrlClass c = .reset ↔ c = 0xFF) ∧
    (ctrlClass c = .other ↔ (0x01 ≤ c ∧ c ≤ 0xFE))) ∧
  (∀ (k : DecodeCtx) (w w' : HostWord), Live w → Live w' →
    ctrlClass (cOf w) = ctrlClass (cOf w') → dOf w = dOf w' → (decode k w).rowNo = (decode k w').rowNo)

/-- R53: the seed is the whole control byte; `0x01`..`0xFE` are usable, and neither `0x00` nor `0xFF` loads
the generator. -/
def Obligations.SeedOperandIsTheWholeControlByte : Prop :=
  (∀ w : HostWord, (seedOperand w).toNat = w.toNat / 256 % 256) ∧
  (∀ (k : DecodeCtx) (w : HostWord) (c d : Byte), decode k w = .seed c d → c = seedOperand w) ∧
  (∀ (k : DecodeCtx) (w : HostWord), k.phase = .awaitSeed → Live w →
    (0x01 ≤ seedOperand w ∧ seedOperand w ≤ 0xFE → decode k w = .seed (seedOperand w) (dOf w)) ∧
    (seedOperand w = 0x00 → decode k w = .awaitNormal (dOf w)) ∧
    (seedOperand w = 0xFF → decode k w = .seedFf (dOf w))) ∧
  (∀ (d : Byte) (s : State), (∃ t, exec (.awaitNormal d) s = .next t ∧ t.gen = s.gen) ∧
    (∃ t, exec (.seedFf d) s = .next t ∧ t.gen = s.gen))

/-- The data operand is the whole data byte (30_encoding.md section 2), and every one of the 256 values, a value equal
to the seed among them, starts a window without a misuse. That the window's byte is the one latched at the window's
first edge is the spec's own decision D12 (42_byte_combiner.md section 2, RUN_LATCH; log 24). -/
def Obligations.DataOperandIsTheWholeDataByte : Prop :=
  (∀ w : HostWord, (dataOperand w).toNat = w.toNat % 256) ∧
  (∀ (w : HostWord) (s : State), s.fault = none → s.phase = .running → s.winCnt = 0 → Quiet w →
    ∃ t, edge w s = .next t ∧ t.winData = some (dataOperand w) ∧ t.fault = none) ∧
  (∀ b d : Byte, ∃ w : HostWord, Quiet w ∧ dataOperand w = d ∧ (b ≠ 0xFF → seedOperand w = b))

/-- The decode table (30 section 3; the order and the misuse rows are the spec's own decisions D3 to D6, D9, D10,
D12): in every context every host word is matched by exactly one row, and `decode` answers that row. -/
def Obligations.EveryEdgeIsMatchedByExactlyOneRow : Prop :=
  ∀ (k : DecodeCtx) (w : HostWord), ∃ row,
    (decodeRows.filter fun r => r.admits k w) = [row] ∧ (decode k w).rowNo = some row.no

/-- Decoding the host word of a well-formed instruction gives it back, in every context that its row admits and
for every value of every operand (the encoding is the spec's own notation, D19). -/
def Obligations.DecodeOfEncodeIsTheInstruction : Prop :=
  ∀ (i : Instr) (k : DecodeCtx) (w : HostWord), i.wf = true → i.selectedIn k = true →
    encode i = some w → decode k w = i

/-- Encoding what a host word decodes to gives the host word back, and the decoded instruction is well formed
and admitted (the encoding is the spec's own notation, D19). -/
def Obligations.EncodeOfDecodeIsTheHostWord : Prop :=
  ∀ (k : DecodeCtx) (w : HostWord), encode (decode k w) = some w ∧
    (decode k w).wf = true ∧ (decode k w).selectedIn k = true

/-- R57: no host word selects an internal operation, and none has an encoding; row 8 does to the generator what
`load` does, row 11 what `clear` does, row 15 what `step` does, with the byte that `step` returns. -/
def Obligations.InternalOperationsAreInvokedByTheirRowsOnly : Prop :=
  (∀ (k : DecodeCtx) (w : HostWord), decode k w ≠ .genClear ∧ decode k w ≠ .genStep ∧
    ∀ sd, decode k w ≠ .genLoad sd) ∧
  (∀ sd, encode (.genLoad sd) = none) ∧ encode .genClear = none ∧ encode .genStep = none ∧
  (∀ (c d : Byte) (s : State), ∃ t u, exec (.genLoad c) s = .next t ∧ exec (.seed c d) s = .next u ∧
    (Instr.seed c d).rowNo = some 8 ∧ u.gen = t.gen) ∧
  (∀ (d : Byte) (s : State), ∃ t u, exec .genClear s = .next t ∧ exec (.runReset d) s = .next u ∧
    (Instr.runReset d).rowNo = some 11 ∧ u.gen = t.gen) ∧
  (∀ (c d b sd : Byte) (k : Nat) (s : State), s.gen = .loaded sd k → s.winData = some b →
    ∃ t u ks g, genNext s.gen = some (ks, g) ∧ exec .genStep s = .next t ∧ exec (.runStep c d) s = .next u ∧
      (Instr.runStep c d).rowNo = some 15 ∧ t.gen = g ∧ u.gen = g ∧ u.outReg = some (combine b ks))

/-- Host words of the spec's vectors V30 (95_test_vectors.md) decode to the rows named there. -/
def Obligations.SpecVectorsDecodeToTheirRows : Prop :=
  decode ⟨.running, 0, 0, none⟩ 0x1FF35 = .rstEdge 0xFF 0x35 ∧
  decode ⟨.idleReset, 2, 0, none⟩ 0x30000 = .releaseShort 0x00 0x00 ∧
  decode ⟨.idleReset, 3, 0, none⟩ 0x3BB00 = .releaseCtrl 0xBB 0x00 ∧
  decode ⟨.awaitSeed, 0, 0, none⟩ 0x3BB00 = .seed 0xBB 0x00 ∧
  decode ⟨.seedLoading, 0, 0, none⟩ 0x3FF00 = .loadFf 0x00 ∧
  decode ⟨.running, 0, 7, some 0x34⟩ 0x3FF35 = .runReset 0x35 ∧
  decode ⟨.running, 0, 3, some 0x35⟩ 0x30036 = .runUnstable 0x00 0x36 ∧
  decode ⟨.running, 0, 7, some 0x35⟩ 0x30035 = .runStep 0x00 0x35 ∧
  decode ⟨.clearing, 0, 0, none⟩ 0x30100 = .clearBad 0x01 0x00

/-- A number of more than 18 bits is no host word and is rejected by name (the model's choice, log 12). -/
def Obligations.WiderNumbersAreRejectedByName : Prop :=
  ∀ (k : DecodeCtx) (n : Nat), (2 ^ 18 ≤ n → decodeNat k n = .error .notHostWord) ∧
    (n < 2 ^ 18 → ∃ w : HostWord, w.toNat = n ∧ decodeNat k n = .ok (decode k w))

/-! ## The step (41_protocol_controller.md section 1) -/

/-- The step of the machine (41 section 1; decisions D1, D20): where the next host word is `w` and no misuse is
recorded, the step is the meaning of the instruction that `w` decodes to in this state, after the host word has
left the schedule and the draw counter has moved on (logs 2, 6). -/
def Obligations.StepRunsTheDecodedInstruction : Prop :=
  ∀ (s : State) (w : HostWord) (rest : List HostWord), s.schedule = w :: rest → s.fault = none →
    step s = exec (decode ⟨s.phase, s.rstCnt, s.winCnt, s.winData⟩ w)
      { s with schedule := rest, draws := s.draws + 1 }

/-- A faulted state is quiescent (41 section 1; the spec's own decision D20): an edge changes nothing of the
block, whatever its inputs. -/
def Obligations.FaultedEdgesChangeNothing : Prop :=
  ∀ (s : State) (m : Misuse) (w : HostWord) (rest : List HostWord), s.fault = some m →
    s.schedule = w :: rest → step s = .next { s with schedule := rest, draws := s.draws + 1 }

/-- Every edge completes: from every state with a host word left the step answers a next state, and it takes
one host word; with none left the run has ended (the model's choice, logs 2, 3). -/
def Obligations.StepCompletesWhileAHostWordIsLeft : Prop :=
  ∀ s : State,
    (s.schedule ≠ [] → ∃ t, step s = .next t ∧ t.schedule = s.schedule.tail ∧ t.draws = s.draws + 1) ∧
    (s.schedule = [] → step s = .fault .runEnded)

/-- The first host word of a run is decoded in the power-on state and runs as the first step (logs 2, 11). -/
def Obligations.FirstHostWordRunsFirst : Prop :=
  ∀ (nbits n : Nat) (i : Instr), decodeTableWord nbits n = some i →
    step (State.reset.withFetchWord nbits n) = exec i { State.reset with draws := 1 }

/-- The priority of conditions at one edge (60_exceptions.md section 1; decisions D14, D25): a recorded misuse,
then `ena = 0`, then `rst_n = 0` in every phase, then in `RUNNING` the `RESET` command whatever the window. -/
def Obligations.EdgePriorityHolds : Prop :=
  (∀ (w : HostWord) (s : State) (m : Misuse), s.fault = some m → edge w s = .next s) ∧
  (∀ (w : HostWord) (s : State), s.fault = none → eOf w = 0 →
    edge w s = exec (.enaLow (rOf w) (cOf w) (dOf w)) s) ∧
  (∀ (w : HostWord) (s : State), s.fault = none → ResetEdge w →
    edge w s = exec (.rstEdge (cOf w) (dOf w)) s) ∧
  (∀ (w : HostWord) (s : State), s.fault = none → s.phase = .running → Live w → cOf w = 0xFF →
    edge w s = exec (.runReset (dOf w)) s)

/-! ## The rows: results, completion and frame -/

/-- The misuse rows ENA_LOW, RELEASE_SHORT, RELEASE_CTRL, SEED_FF, LOAD_FF, CLEAR_BAD (41; the spec's own
decisions D3 to D6, D9, D10, D20): each records its code with the host word of the edge (M5 with `seed_cnt`, M6
with `clr_cnt`), shows no output, and changes nothing else. `encode` gives the recorded host word. -/
def Obligations.MisuseRowsRecordTheirCode : Prop :=
  ∀ s : State, s.fault = none →
    (∀ r c d, ∃ w, encode (.enaLow r c d) = some w ∧ (Misuse.enaLow w).code = .M2 ∧
      exec (.enaLow r c d) s =
        .next { s with outValid := false, stepOut := none, fault := some (.enaLow w) }) ∧
    (∀ c d, ∃ w, encode (.releaseShort c d) = some w ∧ (Misuse.resetShort w).code = .M1 ∧
      exec (.releaseShort c d) s =
        .next { s with outValid := false, stepOut := none, fault := some (.resetShort w) }) ∧
    (∀ c d, ∃ w, encode (.releaseCtrl c d) = some w ∧ (Misuse.releaseCtrl w).code = .M3 ∧
      exec (.releaseCtrl c d) s =
        .next { s with outValid := false, stepOut := none, fault := some (.releaseCtrl w) }) ∧
    (∀ d, ∃ w, encode (.seedFf d) = some w ∧ (Misuse.seedReserved w).code = .M4 ∧
      exec (.seedFf d) s =
        .next { s with outValid := false, stepOut := none, fault := some (.seedReserved w) }) ∧
    (∀ d, ∃ w, encode (.loadFf d) = some w ∧ (Misuse.resetInLoading w s.seedCnt).code = .M5 ∧
      exec (.loadFf d) s =
        .next { s with outValid := false, stepOut := none, fault := some (.resetInLoading w s.seedCnt) }) ∧
    (∀ c d, ∃ w, encode (.clearBad c d) = some w ∧ (Misuse.ctrlInClearing w s.clrCnt).code = .M6 ∧
      exec (.clearBad c d) s =
        .next { s with outValid := false, stepOut := none, fault := some (.ctrlInClearing w s.clrCnt) })

/-- RUN_UNSTABLE (42 section 2; the spec's own decision D12): `M7` with the host word, `win_cnt` and `win_data`;
where nothing has written `win_data`, `M8` (10_state.md section 4; log 17). Nothing else changes. -/
def Obligations.RunUnstableRecordsMisuseM7 : Prop :=
  ∀ (c d : Byte) (s : State), s.fault = none →
    (∀ b, s.winData = some b → ∃ w, encode (.runUnstable c d) = some w ∧
      (Misuse.dataUnstable w s.winCnt b).code = .M7 ∧
      exec (.runUnstable c d) s =
        .next { s with outValid := false, stepOut := none, fault := some (.dataUnstable w s.winCnt b) }) ∧
    (s.winData = none → exec (.runUnstable c d) s =
      .next { s with outValid := false, stepOut := none, fault := some (.undefRead .winData) })

/-- RST_EDGE (41 section 2; 10_state.md section 4; the spec's own decisions D2, D3, D13, D29): from every state,
`IDLE_RESET`, `UNDEF`, one more reset edge counted up to 3; both data registers and the misuse are unchanged. The
three counters are unspecified after it, so nothing is said of them (log 8). -/
def Obligations.ResetEdgeResult : Prop :=
  ∀ (c d : Byte) (s : State), ∃ t, exec (.rstEdge c d) s = .next t ∧
    t.phase = .idleReset ∧ t.gen = .undef ∧ t.rstCnt.val = min (s.rstCnt.val + 1) 3 ∧
    t.outValid = false ∧ t.stepOut = none ∧ t.winData = s.winData ∧ t.outReg = s.outReg ∧
    t.fault = s.fault ∧ t.schedule = s.schedule ∧ t.draws = s.draws

/-- RELEASE (41 section 2; the spec's own decision D4): `AWAIT_SEED` with `rst_cnt` 0, and nothing else but the
output bit; the control byte is not taken as a seed. -/
def Obligations.ReleaseEntersAwaitSeed : Prop :=
  (∀ (d : Byte) (s : State), exec (.release d) s =
    .next { s with phase := .awaitSeed, rstCnt := 0, outValid := false, stepOut := none }) ∧
  (∀ (w : HostWord) (s : State), s.fault = none → s.phase = .idleReset → s.rstCnt = 3 → NormalEdge w →
    edge w s = exec (.release (dOf w)) s)

/-- R81: a `NORMAL` edge in `AWAIT_SEED` changes nothing but `out_valid`, whatever the data byte, for any number
of edges; so `0x00` never leads to `SEED_LOADING` and loads nothing. -/
def Obligations.AwaitNormalStaysForAnyNumberOfEdges : Prop :=
  (∀ (d : Byte) (s : State), ∃ t, exec (.awaitNormal d) s = .next t ∧
    t.record = { s.record with outValid := false }) ∧
  (∀ (ws : List HostWord) (s : State), s.fault = none → s.phase = .awaitSeed → (∀ w ∈ ws, NormalEdge w) →
    ∃ t, edges ws s = .next t ∧ t.phase = .awaitSeed ∧ t.gen = s.gen ∧
      (ws ≠ [] → t.record = { s.record with outValid := false }))

/-- R83: the seed-accept edge loads the control byte of this edge from every generator state, the first seed and
a reseed alike, whatever the data byte; a later control byte does not change the load. -/
def Obligations.SeedAcceptLoadsTheSampledSeed : Prop :=
  (∀ (c d : Byte) (s : State), ∃ t, exec (.seed c d) s = .next t ∧ t.record = { s.record with
    gen := .loaded c 0, phase := .seedLoading, seedCnt := 0, outValid := false }) ∧
  (∀ (w : HostWord) (s : State), s.fault = none → s.phase = .awaitSeed → Live w →
    0x01 ≤ cOf w → cOf w ≤ 0xFE → ∃ t, edge w s = .next t ∧ t.record = { s.record with
      gen := .loaded (cOf w) 0, phase := .seedLoading, seedCnt := 0, outValid := false }) ∧
  (∀ (c d : Byte) (s : State), ∃ t, exec (.loadTick c d) s = .next t ∧ t.gen = s.gen)

/-- LOAD_TICK (41 section 3; the spec's own decisions D7, D9): the `SEED_SETTLE`-th edge enters `RUNNING` at the
start of a window, every other one counts; the control and data bytes have no effect. -/
def Obligations.LoadTickCountsTheSeedSettle : Prop :=
  ∀ (c d : Byte) (s : State),
    (s.seedCnt + 1 = Config.SEED_SETTLE → exec (.loadTick c d) s =
      .next { s with phase := .running, winCnt := 0, outValid := false, stepOut := none }) ∧
    (s.seedCnt + 1 ≠ Config.SEED_SETTLE → exec (.loadTick c d) s =
      .next { s with seedCnt := s.seedCnt + 1, outValid := false, stepOut := none })

/-- RUN_RESET (41 section 4; 42 section 3; the spec's own decision D14): at every `win_cnt`, the last edge of a
window included, and whatever the data byte, the state is cleared, the window gives no output and the output
register keeps its value. -/
def Obligations.RunResetClearsAtEveryWindowCount : Prop :=
  (∀ (d : Byte) (s : State), exec (.runReset d) s = .next { s with
    gen := .cleared, phase := .clearing, clrCnt := 0, winCnt := 0, outValid := false, stepOut := none }) ∧
  (∀ (w : HostWord) (s : State), s.fault = none → s.phase = .running → Live w → cOf w = 0xFF →
    edge w s = .next { s with
      gen := .cleared, phase := .clearing, clrCnt := 0, winCnt := 0, outValid := false, stepOut := none })

/-- CLEAR_TICK (41 section 4; the spec's own decision D8): the `CLEAR_SETTLE`-th edge enters `AWAIT_SEED`, every
other one counts; the generator is not touched. -/
def Obligations.ClearTickCountsTheClearSettle : Prop :=
  ∀ (d : Byte) (s : State),
    (s.clrCnt + 1 = Config.CLEAR_SETTLE → exec (.clearTick d) s =
      .next { s with phase := .awaitSeed, outValid := false, stepOut := none }) ∧
    (s.clrCnt + 1 ≠ Config.CLEAR_SETTLE → exec (.clearTick d) s =
      .next { s with clrCnt := s.clrCnt + 1, outValid := false, stepOut := none })

/-- RUN_LATCH (42 section 2; the spec's own decision D12): the window's byte is the data byte of this edge, and
the previous output is shown no longer. -/
def Obligations.RunLatchTakesTheDataByte : Prop :=
  (∀ (c d : Byte) (s : State), exec (.runLatch c d) s =
    .next { s with winData := some d, winCnt := 1, outValid := false, stepOut := none }) ∧
  (∀ (w : HostWord) (s : State), s.fault = none → s.phase = .running → s.winCnt = 0 → Quiet w →
    edge w s = exec (.runLatch (cOf w) (dOf w)) s)

/-- R96: the 2nd to the 7th edge of a window only counts; the generator is not stepped and no output is produced
or shown. -/
def Obligations.RunTickOnlyCounts : Prop :=
  (∀ (c d : Byte) (s : State), ∃ t, exec (.runTick c d) s = .next t ∧
    t.record = { s.record with winCnt := s.winCnt + 1, outValid := false }) ∧
  (∀ (w : HostWord) (s : State), s.fault = none → s.phase = .running → Quiet w →
    1 ≤ s.winCnt.val → s.winCnt.val ≤ 6 → s.winData = some (dOf w) →
    ∃ t, edge w s = .next t ∧ t.winCnt.val = s.winCnt.val + 1 ∧
      t.record = { s.record with winCnt := t.winCnt, outValid := false })

/-- RUN_STEP (42 section 2; the spec's own decision D13): one `step()`, the output byte `win_data XOR ks`, and
the window starts anew. A generator without a load, or a `win_data` never written, is `M8` (10_state.md section
4), and then nothing else changes. -/
def Obligations.RunStepProducesTheOutputByte : Prop :=
  ∀ (c d : Byte) (s : State),
    (∀ sd k b, s.gen = .loaded sd k → s.winData = some b → exec (.runStep c d) s = .next { s with
      gen := .loaded sd (k + 1), stepOut := some (Config.KS sd k), outReg := some (b ^^^ Config.KS sd k),
      outValid := true, winCnt := 0 }) ∧
    (s.fault = none → s.gen = .undef ∨ s.gen = .cleared → exec (.runStep c d) s = .next { s with
      outValid := false, stepOut := none, fault := some (.undefRead .gen) }) ∧
    (∀ sd k, s.fault = none → s.gen = .loaded sd k → s.winData = none → exec (.runStep c d) s =
      .next { s with outValid := false, stepOut := none, fault := some (.undefRead .winData) })

/-- R98: the combiner works bit by bit, on the output byte of RUN_STEP too, and meets the five laws. -/
def Obligations.CombinerIsBitwiseXor : Prop :=
  (∀ (c d b sd : Byte) (k : Nat) (s : State), s.gen = .loaded sd k → s.winData = some b →
    ∃ t out, exec (.runStep c d) s = .next t ∧ t.outReg = some out ∧
      ∀ i < 8, out.getLsbD i = (b.getLsbD i ^^ (Config.KS sd k).getLsbD i)) ∧
  (∀ a : Byte, combine a 0x00 = a ∧ combine a 0xFF = ~~~a ∧ combine a a = 0x00) ∧
  (∀ a b : Byte, combine (combine a b) b = a ∧ combine a b = combine b a)

/-! ## The whole machine -/

/-- The invariant holds at power-on (10_state.md section 4; the counters' value there is the model's, log 5, and
the statement does not rest on it). -/
def Obligations.InvariantHoldsAtReset : Prop :=
  Inv State.reset ∧ ∀ (n m : Nat) (x : Fin 8) (q : Nat),
    Inv { State.reset with seedCnt := n, clrCnt := m, winCnt := x, draws := q }

/-- Every step keeps the invariant, so no reachable state reads an unwritten field or records `M8`, the
generator always holds what its phase says, every loaded seed is usable, and an output is shown only at the end
of a window (10_state.md sections 2 and 4, 41 section 5; the spec marks these as derived). -/
def Obligations.EveryStepKeepsTheInvariant : Prop :=
  ∀ s t : State, Inv s → step s = .next t → Inv t

/-- A recorded misuse is never cleared or replaced (10_state.md section 3; the spec's own decision D20), by no
instruction, no step and no observation. -/
def Obligations.MisuseIsSticky : Prop :=
  (∀ (i : Instr) (s t : State) (m : Misuse), exec i s = .next t → s.fault = some m → t.fault = some m) ∧
  (∀ (n : Nat) (s t : State) (m : Misuse), stepN n s = .next t → s.fault = some m → t.fault = some m) ∧
  (∀ (s : State) (m : Misuse), s.fault = some m → s.observe.2.fault = some m)

/-- Which rows write which field: the frame of every instruction (10_state.md sections 2 and 3, where the
writers of each field are named; several of those rules are the spec's own decisions). No instruction touches
the host's schedule or the draw counter. -/
def Obligations.EachFieldIsWrittenByItsRowsOnly : Prop :=
  ∀ (i : Instr) (s t : State), exec i s = .next t →
    (t.phase ≠ s.phase → i.rowNo ∈ [some 2, some 5, some 8, some 10, some 11, some 17]) ∧
    (t.seedCnt ≠ s.seedCnt → i.rowNo ∈ [some 2, some 8, some 10]) ∧
    (t.clrCnt ≠ s.clrCnt → i.rowNo ∈ [some 2, some 11, some 17]) ∧
    (t.winCnt ≠ s.winCnt → i.rowNo ∈ [some 2, some 10, some 11, some 12, some 14, some 15]) ∧
    (t.winData ≠ s.winData → i.rowNo = some 12) ∧
    (t.outReg ≠ s.outReg → i.rowNo = some 15) ∧
    (t.gen ≠ s.gen → i.rowNo ∈ [some 2, some 8, some 11, some 15] ∨ i.isEdge = false) ∧
    (t.rstCnt ≠ s.rstCnt → i.rowNo ∈ [some 2, some 5]) ∧
    (t.fault ≠ s.fault →
      i.rowNo ∈ [some 1, some 3, some 4, some 7, some 9, some 13, some 15, some 16] ∨ i = .genStep) ∧
    (t.outValid ≠ s.outValid → i.isEdge = true ∨ i = .genStep) ∧
    (t.stepOut ≠ s.stepOut → i.isEdge = true ∨ i = .genStep) ∧
    t.schedule = s.schedule ∧ t.draws = s.draws

/-- R26: the pending-output register is written only at a window's 8th edge, and `data_out` shows it while
`out_valid` is 1. -/
def Obligations.OutputRegisterIsWrittenAtTheEighthEdgeOnly : Prop :=
  (∀ (w : HostWord) (s t : State), edge w s = .next t → t.outReg ≠ s.outReg →
    s.phase = .running ∧ s.winCnt = 7 ∧ Quiet w ∧ s.winData = some (dOf w) ∧ t.outValid = true) ∧
  (∀ (s : State) (b : Byte), s.outValid = true → s.outReg = some b → s.dataOut = b)

/-- `out_valid` (10_state.md section 3; the spec's own decision D13): an edge leaves it 1 exactly where it was a
RUN_STEP that produced an output byte. -/
def Obligations.OutputIsValidExactlyAfterRunStep : Prop :=
  ∀ (i : Instr) (s t : State), i.isEdge = true → exec i s = .next t →
    (t.outValid = true ↔ (i.rowNo = some 15 ∧ (∃ sd k, s.gen = .loaded sd k) ∧ s.winData.isSome = true))

/-- The observation point (10_state.md section 1; the spec's own decision D13, and log 17 for a register never
written): the host sees `out_reg` while `out_valid` is 1 and a free value otherwise; reading changes nothing of
the block, and the next reading is a new draw (log 29). -/
def Obligations.ObservationShowsTheOutputRegister : Prop :=
  ∀ s : State,
    (∀ b, s.outValid = true → s.outReg = some b → s.observe = (b, { s with draws := s.draws + 1 })) ∧
    (s.outValid = false →
      s.observe = (Config.freeDataOut s.draws, { s with draws := s.draws + 1 })) ∧
    (s.outValid = true → s.outReg = none → s.fault = none → s.observe.2 =
      { s with outValid := false, fault := some (.undefRead .outReg), draws := s.draws + 1 })

/-- The phase transitions without a fault are exactly those of the table (41 section 5, which the spec marks as
derived). -/
def Obligations.PhaseTransitionsAreExactlyTheTable : Prop :=
  ∀ (w : HostWord) (s t : State), edge w s = .next t → t.fault = none →
    (ResetEdge w ∧ t.phase = .idleReset) ∨
    (Live w ∧
      ((s.phase = .idleReset ∧ s.rstCnt = 3 ∧ cOf w = 0x00 ∧ t.phase = .awaitSeed) ∨
       (s.phase = .awaitSeed ∧ cOf w = 0x00 ∧ t.phase = .awaitSeed) ∨
       (s.phase = .awaitSeed ∧ cOf w ≠ 0x00 ∧ cOf w ≠ 0xFF ∧ t.phase = .seedLoading) ∨
       (s.phase = .seedLoading ∧ cOf w ≠ 0xFF ∧
         t.phase = if s.seedCnt + 1 = Config.SEED_SETTLE then .running else .seedLoading) ∨
       (s.phase = .running ∧ cOf w ≠ 0xFF ∧ t.phase = .running) ∨
       (s.phase = .running ∧ cOf w = 0xFF ∧ t.phase = .clearing) ∨
       (s.phase = .clearing ∧ cOf w = 0x00 ∧
         t.phase = if s.clrCnt + 1 = Config.CLEAR_SETTLE then .awaitSeed else .clearing)))

/-- The data byte reaches the state in `RUNNING` only (10_state.md section 1): outside it two edges that differ in
the data byte alone leave the same state. Left out are the values a misuse records (the model's bookkeeping, log 15)
and, in IDLE_RESET, the three counters, which are unspecified there (log 6). -/
def Obligations.DataByteHasNoEffectOutsideRunning : Prop :=
  ∀ (s : State) (w w' : HostWord), s.phase ≠ .running →
    rOf w = rOf w' → eOf w = eOf w' → cOf w = cOf w' →
    ∃ t t', edge w s = .next t ∧ edge w' s = .next t' ∧ SameButRecord t t'

/-- The control byte has no effect in `RUNNING` unless it is `0xFF` (41 section 5, which the spec marks as
derived; the recorded values left out as above): two such edges leave the same state, stay in `RUNNING`, and
change the generator by a step or not at all. -/
def Obligations.ControlByteHasNoEffectInRunning : Prop :=
  ∀ (s : State) (w w' : HostWord), s.phase = .running → Quiet w → Quiet w' → dOf w = dOf w' →
    ∃ t t', edge w s = .next t ∧ edge w' s = .next t' ∧ SameButRecord t t' ∧ t.phase = .running ∧
      (t.gen = s.gen ∨ ∃ sd k, s.gen = .loaded sd k ∧ t.gen = .loaded sd (k + 1))

/-! ## Runs (70_reset_and_hazards.md, 42_byte_combiner.md section 3) -/

/-- The reset duty (70 section 1; the spec's own decisions D2 to D4): from every state without a misuse, at least
3 reset edges and a release with `NORMAL` lead to the entry state after boot. -/
def Obligations.BootReachesAwaitSeed : Prop :=
  ∀ (s : State) (ws rest : List HostWord) (v : HostWord), s.fault = none → 3 ≤ ws.length →
    (∀ w ∈ ws, ResetEdge w) → NormalEdge v → s.schedule = ws ++ v :: rest →
    ∃ t, stepN (ws.length + 1) s = .next t ∧ AfterBoot t ∧ t.schedule = rest

/-- A reset of fewer than 3 edges (41 section 2; the spec's own decision D3): wherever no reset edge has been
counted, releasing after fewer than 3 reset edges is `M1`. With no reset edge at all this is a release at
power-on; a reset pulse of 1 or 2 edges may start in any phase. -/
def Obligations.ShortResetIsMisuseM1 : Prop :=
  ∀ (s : State) (ws rest : List HostWord) (v : HostWord), s.fault = none → (s.phase = .idleReset ∨ ws ≠ []) →
    s.rstCnt = 0 → ws.length < 3 → (∀ w ∈ ws, ResetEdge w) → Live v → s.schedule = ws ++ v :: rest →
    ∃ t, stepN (ws.length + 1) s = .next t ∧ t.fault = some (.resetShort v) ∧ t.phase = .idleReset ∧
      t.rstCnt.val = ws.length

/-- The seed settle (41 section 3, 70 section 3; the spec's own decisions D7, D9): exactly `SEED_SETTLE` edges are
spent in `SEED_LOADING`, with any control bytes but `0xFF` and any data, and the load is kept. -/
def Obligations.SeedSettleTakesExactlyItsEdges : Prop :=
  ∀ (s : State) (ws rest : List HostWord), s.fault = none → s.phase = .seedLoading → s.seedCnt = 0 →
    ws.length ≤ Config.SEED_SETTLE → (∀ w ∈ ws, Quiet w) → s.schedule = ws ++ rest →
    ∃ t, stepN ws.length s = .next t ∧ t.gen = s.gen ∧ t.fault = none ∧ t.schedule = rest ∧
      (ws ≠ [] → t.outValid = false) ∧
      (ws.length = Config.SEED_SETTLE → t.phase = .running ∧ t.winCnt = 0) ∧
      (ws.length < Config.SEED_SETTLE → t.phase = .seedLoading ∧ t.seedCnt = ws.length)

/-- The clear settle (41 section 4, 70 section 3; the spec's own decision D8): exactly `CLEAR_SETTLE` consecutive
`NORMAL` edges lead to `AWAIT_SEED`. -/
def Obligations.ClearSettleTakesExactlyItsEdges : Prop :=
  ∀ (s : State) (ws rest : List HostWord), s.fault = none → s.phase = .clearing → s.clrCnt = 0 →
    ws.length ≤ Config.CLEAR_SETTLE → (∀ w ∈ ws, NormalEdge w) → s.schedule = ws ++ rest →
    ∃ t, stepN ws.length s = .next t ∧ t.gen = s.gen ∧ t.fault = none ∧ t.schedule = rest ∧
      (ws ≠ [] → t.outValid = false) ∧
      (ws.length = Config.CLEAR_SETTLE → t.phase = .awaitSeed) ∧
      (ws.length < Config.CLEAR_SETTLE → t.phase = .clearing ∧ t.clrCnt = ws.length)

/-- One window (42 sections 1 to 3; the spec's own decisions D11 to D13): 8 edges on one data byte, whatever their
control bytes but `0xFF`, show `D XOR KS(s, k)` after the 8th edge and no output after any earlier one, and move
the keystream on by one byte. -/
def Obligations.WindowOutputsAfterExactlyEightEdges : Prop :=
  ∀ (s : State) (ws rest : List HostWord) (sd d : Byte) (k : Nat), s.fault = none → s.phase = .running →
    s.winCnt = 0 → s.gen = .loaded sd k → ws ≠ [] → ws.length ≤ 8 → (∀ w ∈ ws, Quiet w ∧ dOf w = d) →
    s.schedule = ws ++ rest →
    ∃ t, stepN ws.length s = .next t ∧ t.phase = .running ∧ t.fault = none ∧ t.winData = some d ∧
      t.schedule = rest ∧
      (ws.length = 8 → t.outValid = true ∧ t.dataOut = d ^^^ Config.KS sd k ∧ t.winCnt = 0 ∧
        t.gen = .loaded sd (k + 1)) ∧
      (ws.length < 8 → t.outValid = false ∧ t.outReg = s.outReg ∧ t.winCnt.val = ws.length ∧
        t.gen = .loaded sd k)

/-- The output of a run (42 section 3, which the spec marks as derived): a message presented in consecutive
windows from keystream index `k` on is read back as `D_j XOR KS(s, k + j)`, one byte for each window. -/
def Obligations.MessageOutputsAreXorWithTheKeystream : Prop :=
  ∀ (ds : List Byte) (x : Run) (sd : Byte) (k : Nat), x.state.fault = none → x.state.phase = .running →
    x.state.winCnt = 0 → x.state.gen = .loaded sd k →
    ∃ y, runSchedule (messageStmts ds) x = .next y ∧
      y.result = x.result ++ ds.mapIdx (fun j d => d ^^^ Config.KS sd (k + j)) ∧
      y.state.fault = none ∧ y.state.phase = .running ∧ y.state.winCnt = 0 ∧
      y.state.gen = .loaded sd (k + ds.length)

/-- The round trip (42 section 3, which the spec marks as derived): for every usable seed and every message,
seeding and presenting the message gives bytes which, presented after a clear and a reseed with the same seed,
give the message back; and the same after a reset line and boot. No law of `KS` is assumed. -/
def Obligations.DecryptionOfEncryptionIsTheMessage : Prop :=
  ∀ (sd : Byte) (ds : List Byte) (x : Run), 0x01 ≤ sd → sd ≤ 0xFE → x.state.fault = none →
    x.state.phase = .awaitSeed →
    ∃ y cs, runSchedule (seedStmts sd ++ messageStmts ds) x = .next y ∧ y.result = x.result ++ cs ∧
      cs.length = ds.length ∧ y.state.fault = none ∧
      (∃ z, runSchedule (clearStmts ++ seedStmts sd ++ messageStmts cs) y = .next z ∧
        z.result = y.result ++ ds ∧ z.state.fault = none) ∧
      (∃ z, runSchedule (boot ++ seedStmts sd ++ messageStmts cs) y = .next z ∧
        z.result = y.result ++ ds ∧ z.state.fault = none)

/-- The run of a schedule is a run of the machine (70 section 5): its edges, one by one, do what the host's own
run of the machine does on the same host words. -/
def Obligations.ScheduleRunsAreRunsOfTheMachine : Prop :=
  (∀ (n : Nat) (s : State), Host.Core.run core n s = stepN n s) ∧
  (∀ (ws : List HostWord) (s t : State) (r : List Byte), s.schedule = [] →
    (runSchedule (ws.map .edge) ⟨s, r⟩ = .next ⟨t, r⟩ ↔ stepN ws.length { s with schedule := ws } = .next t))
end

