-- ==== Sys2Proof/Laws/Decode.lean ====
section
/-! SUPPORT. The laws of the host word (R52): its four fields, and one equation of `decode` for each phase
(R74), which later proofs cite instead of unfolding `decode`. -/

namespace Sys2Proof

/-- Each bit of a host word comes from the field it belongs to (R52). -/
theorem packWord_getLsbD (r e : Bit) (c d : Byte) (i : Nat) :
    (packWord r e c d).getLsbD i =
      if i < 8 then d.getLsbD i else if i < 16 then c.getLsbD (i - 8)
      else if i < 17 then e.getLsbD (i - 16) else r.getLsbD (i - 17) := by
  simp only [packWord, BitVec.getLsbD_append]
  by_cases h1 : i < 8
  · simp [h1]
  · by_cases h2 : i < 16
    · simp [h1, h2, show i - 8 < 8 by omega]
    · by_cases h3 : i < 17
      · simp [h1, h2, h3, show ¬ i - 8 < 8 by omega, show i - 8 - 8 = i - 16 by omega, show i - 16 < 1 by omega]
      · simp [h1, h2, h3, show ¬ i - 8 < 8 by omega, show i - 8 - 8 = i - 16 by omega, show ¬ i - 16 < 1 by omega,
          show i - 16 - 1 = i - 17 by omega]

@[simp] theorem rOf_packWord (r e : Bit) (c d : Byte) : rOf (packWord r e c d) = r := by
  apply BitVec.eq_of_getLsbD_eq
  intro i hi
  have h0 : i = 0 := by omega
  subst h0
  simp only [rOf, BitVec.getLsbD_extractLsb', packWord_getLsbD]
  simp

@[simp] theorem eOf_packWord (r e : Bit) (c d : Byte) : eOf (packWord r e c d) = e := by
  apply BitVec.eq_of_getLsbD_eq
  intro i hi
  have h0 : i = 0 := by omega
  subst h0
  simp only [eOf, BitVec.getLsbD_extractLsb', packWord_getLsbD]
  simp

@[simp] theorem cOf_packWord (r e : Bit) (c d : Byte) : cOf (packWord r e c d) = c := by
  apply BitVec.eq_of_getLsbD_eq
  intro i hi
  simp [cOf, packWord_getLsbD, hi, show 8 + i < 16 by omega]

@[simp] theorem dOf_packWord (r e : Bit) (c d : Byte) : dOf (packWord r e c d) = d := by
  apply BitVec.eq_of_getLsbD_eq
  intro i hi
  simp [dOf, packWord_getLsbD, hi]

@[simp] theorem packWord_fields (w : HostWord) : packWord (rOf w) (eOf w) (cOf w) (dOf w) = w := by
  apply BitVec.eq_of_getLsbD_eq
  intro i hi
  rw [packWord_getLsbD]
  simp only [rOf, eOf, cOf, dOf, BitVec.getLsbD_extractLsb']
  by_cases h1 : i < 8
  · simp [h1]
  · by_cases h2 : i < 16
    · simp [h1, h2, show i - 8 < 8 by omega, show 8 + (i - 8) = i by omega]
    · have h3 : i = 16 ∨ i = 17 := by omega
      rcases h3 with rfl | rfl <;> simp

/-- The mask of row 1 keeps `ena` (R56). -/
theorem and_mask_ena (w : HostWord) : w &&& 0x10000 = packWord 0 (eOf w) 0 0 := by
  apply BitVec.eq_of_getLsbD_eq
  intro i hi
  simp only [packWord_getLsbD, BitVec.getLsbD_and, eOf, BitVec.getLsbD_extractLsb']
  interval_cases i <;> simp

/-- The mask `0x30000` keeps `rst_n` and `ena` (R56). -/
theorem and_mask_pins (w : HostWord) : w &&& 0x30000 = packWord (rOf w) (eOf w) 0 0 := by
  apply BitVec.eq_of_getLsbD_eq
  intro i hi
  simp only [packWord_getLsbD, BitVec.getLsbD_and, rOf, eOf, BitVec.getLsbD_extractLsb']
  interval_cases i <;> simp

/-- The mask `0x3FF00` keeps `rst_n`, `ena` and the control byte (R56). -/
theorem and_mask_ctrl (w : HostWord) : w &&& 0x3FF00 = packWord (rOf w) (eOf w) (cOf w) 0 := by
  apply BitVec.eq_of_getLsbD_eq
  intro i hi
  simp only [packWord_getLsbD, BitVec.getLsbD_and, rOf, eOf, cOf, BitVec.getLsbD_extractLsb']
  interval_cases i <;> simp

/-- Two host words are equal when their fields are. -/
theorem packWord_inj {r e r' e' : Bit} {c d c' d' : Byte} :
    packWord r e c d = packWord r' e' c' d' ↔ r = r' ∧ e = e' ∧ c = c' ∧ d = d' := by
  constructor
  · intro h
    exact ⟨by simpa using congrArg rOf h, by simpa using congrArg eOf h,
      by simpa using congrArg cOf h, by simpa using congrArg dOf h⟩
  · rintro ⟨rfl, rfl, rfl, rfl⟩; rfl

/-- A pin is 0 or 1. -/
theorem bit_eq_zero_or_one (b : Bit) : b = 0 ∨ b = 1 := by
  revert b; decide

/-- A live host word is the packing of its two bytes (R52). -/
theorem packWord_of_live {w : HostWord} (he : eOf w = 1) (hr : rOf w = 1) :
    packWord 1 1 (cOf w) (dOf w) = w := by
  conv_rhs => rw [← packWord_fields w, he, hr]

/-- A reset edge is the packing of its two bytes (R52). -/
theorem packWord_of_resetEdge {w : HostWord} (he : eOf w = 1) (hr : rOf w = 0) :
    packWord 0 1 (cOf w) (dOf w) = w := by
  conv_rhs => rw [← packWord_fields w, he, hr]

/-- A host word with `ena = 0` is the packing of its other fields (R52). -/
theorem packWord_of_enaLow {w : HostWord} (he : eOf w = 0) :
    packWord (rOf w) 0 (cOf w) (dOf w) = w := by
  conv_rhs => rw [← packWord_fields w, he]

/-- The usable seeds are `0x01`..`0xFE` (R53). -/
theorem usableSeed_iff (c : Byte) : usableSeed c = true ↔ 0x01 ≤ c ∧ c ≤ 0xFE := by
  revert c; decide

theorem decode_enaLow {k : DecodeCtx} {w : HostWord} (he : eOf w = 0) :
    decode k w = .enaLow (rOf w) (cOf w) (dOf w) := by simp [decode, he]

theorem decode_rstEdge {k : DecodeCtx} {w : HostWord} (he : eOf w = 1) (hr : rOf w = 0) :
    decode k w = .rstEdge (cOf w) (dOf w) := by simp [decode, he, hr]

/-- The live edges (`ena = 1`, `rst_n = 1`) of `IDLE_RESET`. -/
theorem decode_idleReset {k : DecodeCtx} {w : HostWord} (he : eOf w = 1) (hr : rOf w = 1)
    (hp : k.phase = .idleReset) :
    decode k w = if k.rstCnt.val < 3 then .releaseShort (cOf w) (dOf w)
      else if cOf w = 0x00 then .release (dOf w) else .releaseCtrl (cOf w) (dOf w) := by
  simp [decode, he, hr, hp]

/-- The live edges of `AWAIT_SEED`. -/
theorem decode_awaitSeed {k : DecodeCtx} {w : HostWord} (he : eOf w = 1) (hr : rOf w = 1)
    (hp : k.phase = .awaitSeed) :
    decode k w = if cOf w = 0x00 then .awaitNormal (dOf w)
      else if cOf w = 0xFF then .seedFf (dOf w) else .seed (cOf w) (dOf w) := by
  simp [decode, he, hr, hp]

/-- The live edges of `SEED_LOADING`. -/
theorem decode_seedLoading {k : DecodeCtx} {w : HostWord} (he : eOf w = 1) (hr : rOf w = 1)
    (hp : k.phase = .seedLoading) :
    decode k w = if cOf w = 0xFF then .loadFf (dOf w) else .loadTick (cOf w) (dOf w) := by
  simp [decode, he, hr, hp]

/-- The live edges of `RUNNING`. -/
theorem decode_running {k : DecodeCtx} {w : HostWord} (he : eOf w = 1) (hr : rOf w = 1)
    (hp : k.phase = .running) :
    decode k w = if cOf w = 0xFF then .runReset (dOf w)
      else if k.winCnt = 0 then .runLatch (cOf w) (dOf w)
      else if k.winData ≠ some (dOf w) then .runUnstable (cOf w) (dOf w)
      else if k.winCnt = 7 then .runStep (cOf w) (dOf w) else .runTick (cOf w) (dOf w) := by
  simp [decode, he, hr, hp]

/-- The live edges of `CLEARING`. -/
theorem decode_clearing {k : DecodeCtx} {w : HostWord} (he : eOf w = 1) (hr : rOf w = 1)
    (hp : k.phase = .clearing) :
    decode k w = if cOf w = 0x00 then .clearTick (dOf w) else .clearBad (cOf w) (dOf w) := by
  simp [decode, he, hr, hp]

/-- Every word has one of the three shapes `decode` tells apart first. -/
theorem edge_kind (w : HostWord) :
    eOf w = 0 ∨ (eOf w = 1 ∧ rOf w = 0) ∨ (eOf w = 1 ∧ rOf w = 1) := by
  rcases bit_eq_zero_or_one (eOf w) with he | he
  · exact .inl he
  · rcases bit_eq_zero_or_one (rOf w) with hr | hr
    · exact .inr (.inl ⟨he, hr⟩)
    · exact .inr (.inr ⟨he, hr⟩)

end Sys2Proof
end

