-- ==== Sys2Proof/Laws/State.lean ====
section
/-! SUPPORT. One lemma for each field of the state under each shared update, so that no later proof unfolds
an update (the updates themselves are in Machine/Flags.lean, Ops.lean and Edge.lean). -/

namespace Sys2Proof.Machine

@[simp] theorem beginEdge_phase (s : State) : (beginEdge s).phase = s.phase := rfl
@[simp] theorem beginEdge_seedCnt (s : State) : (beginEdge s).seedCnt = s.seedCnt := rfl
@[simp] theorem beginEdge_clrCnt (s : State) : (beginEdge s).clrCnt = s.clrCnt := rfl
@[simp] theorem beginEdge_winCnt (s : State) : (beginEdge s).winCnt = s.winCnt := rfl
@[simp] theorem beginEdge_winData (s : State) : (beginEdge s).winData = s.winData := rfl
@[simp] theorem beginEdge_outReg (s : State) : (beginEdge s).outReg = s.outReg := rfl
@[simp] theorem beginEdge_gen (s : State) : (beginEdge s).gen = s.gen := rfl
@[simp] theorem beginEdge_rstCnt (s : State) : (beginEdge s).rstCnt = s.rstCnt := rfl
@[simp] theorem beginEdge_outValid (s : State) : (beginEdge s).outValid = false := rfl
@[simp] theorem beginEdge_fault (s : State) : (beginEdge s).fault = s.fault := rfl
@[simp] theorem beginEdge_stepOut (s : State) : (beginEdge s).stepOut = none := rfl
@[simp] theorem beginEdge_schedule (s : State) : (beginEdge s).schedule = s.schedule := rfl
@[simp] theorem beginEdge_draws (s : State) : (beginEdge s).draws = s.draws := rfl

@[simp] theorem raise_phase (m : Misuse) (s : State) : (raise m s).phase = s.phase := rfl
@[simp] theorem raise_seedCnt (m : Misuse) (s : State) : (raise m s).seedCnt = s.seedCnt := rfl
@[simp] theorem raise_clrCnt (m : Misuse) (s : State) : (raise m s).clrCnt = s.clrCnt := rfl
@[simp] theorem raise_winCnt (m : Misuse) (s : State) : (raise m s).winCnt = s.winCnt := rfl
@[simp] theorem raise_winData (m : Misuse) (s : State) : (raise m s).winData = s.winData := rfl
@[simp] theorem raise_outReg (m : Misuse) (s : State) : (raise m s).outReg = s.outReg := rfl
@[simp] theorem raise_gen (m : Misuse) (s : State) : (raise m s).gen = s.gen := rfl
@[simp] theorem raise_rstCnt (m : Misuse) (s : State) : (raise m s).rstCnt = s.rstCnt := rfl
@[simp] theorem raise_outValid (m : Misuse) (s : State) : (raise m s).outValid = false := rfl
@[simp] theorem raise_fault (m : Misuse) (s : State) : (raise m s).fault = some (s.fault.getD m) := rfl
@[simp] theorem raise_stepOut (m : Misuse) (s : State) : (raise m s).stepOut = s.stepOut := rfl
@[simp] theorem raise_schedule (m : Misuse) (s : State) : (raise m s).schedule = s.schedule := rfl
@[simp] theorem raise_draws (m : Misuse) (s : State) : (raise m s).draws = s.draws := rfl

@[simp] theorem loadGen_phase (sd : Byte) (s : State) : (loadGen sd s).phase = s.phase := rfl
@[simp] theorem loadGen_seedCnt (sd : Byte) (s : State) : (loadGen sd s).seedCnt = s.seedCnt := rfl
@[simp] theorem loadGen_clrCnt (sd : Byte) (s : State) : (loadGen sd s).clrCnt = s.clrCnt := rfl
@[simp] theorem loadGen_winCnt (sd : Byte) (s : State) : (loadGen sd s).winCnt = s.winCnt := rfl
@[simp] theorem loadGen_winData (sd : Byte) (s : State) : (loadGen sd s).winData = s.winData := rfl
@[simp] theorem loadGen_outReg (sd : Byte) (s : State) : (loadGen sd s).outReg = s.outReg := rfl
@[simp] theorem loadGen_gen (sd : Byte) (s : State) : (loadGen sd s).gen = .loaded sd 0 := rfl
@[simp] theorem loadGen_rstCnt (sd : Byte) (s : State) : (loadGen sd s).rstCnt = s.rstCnt := rfl
@[simp] theorem loadGen_outValid (sd : Byte) (s : State) : (loadGen sd s).outValid = s.outValid := rfl
@[simp] theorem loadGen_fault (sd : Byte) (s : State) : (loadGen sd s).fault = s.fault := rfl
@[simp] theorem loadGen_stepOut (sd : Byte) (s : State) : (loadGen sd s).stepOut = s.stepOut := rfl
@[simp] theorem loadGen_schedule (sd : Byte) (s : State) : (loadGen sd s).schedule = s.schedule := rfl
@[simp] theorem loadGen_draws (sd : Byte) (s : State) : (loadGen sd s).draws = s.draws := rfl

@[simp] theorem clearGen_phase (s : State) : (clearGen s).phase = s.phase := rfl
@[simp] theorem clearGen_seedCnt (s : State) : (clearGen s).seedCnt = s.seedCnt := rfl
@[simp] theorem clearGen_clrCnt (s : State) : (clearGen s).clrCnt = s.clrCnt := rfl
@[simp] theorem clearGen_winCnt (s : State) : (clearGen s).winCnt = s.winCnt := rfl
@[simp] theorem clearGen_winData (s : State) : (clearGen s).winData = s.winData := rfl
@[simp] theorem clearGen_outReg (s : State) : (clearGen s).outReg = s.outReg := rfl
@[simp] theorem clearGen_gen (s : State) : (clearGen s).gen = .cleared := rfl
@[simp] theorem clearGen_rstCnt (s : State) : (clearGen s).rstCnt = s.rstCnt := rfl
@[simp] theorem clearGen_outValid (s : State) : (clearGen s).outValid = s.outValid := rfl
@[simp] theorem clearGen_fault (s : State) : (clearGen s).fault = s.fault := rfl
@[simp] theorem clearGen_stepOut (s : State) : (clearGen s).stepOut = s.stepOut := rfl
@[simp] theorem clearGen_schedule (s : State) : (clearGen s).schedule = s.schedule := rfl
@[simp] theorem clearGen_draws (s : State) : (clearGen s).draws = s.draws := rfl

@[simp] theorem resetEdge_phase (s : State) : (resetEdge s).phase = .idleReset := rfl
@[simp] theorem resetEdge_seedCnt (s : State) : (resetEdge s).seedCnt = Config.freeSeedCnt s.draws := rfl
@[simp] theorem resetEdge_clrCnt (s : State) : (resetEdge s).clrCnt = Config.freeClrCnt s.draws := rfl
@[simp] theorem resetEdge_winCnt (s : State) : (resetEdge s).winCnt = Config.freeWinCnt s.draws := rfl
@[simp] theorem resetEdge_winData (s : State) : (resetEdge s).winData = s.winData := rfl
@[simp] theorem resetEdge_outReg (s : State) : (resetEdge s).outReg = s.outReg := rfl
@[simp] theorem resetEdge_gen (s : State) : (resetEdge s).gen = .undef := rfl
@[simp] theorem resetEdge_rstCnt (s : State) : (resetEdge s).rstCnt = bumpRst s.rstCnt := rfl
@[simp] theorem resetEdge_outValid (s : State) : (resetEdge s).outValid = s.outValid := rfl
@[simp] theorem resetEdge_fault (s : State) : (resetEdge s).fault = s.fault := rfl
@[simp] theorem resetEdge_stepOut (s : State) : (resetEdge s).stepOut = s.stepOut := rfl
@[simp] theorem resetEdge_schedule (s : State) : (resetEdge s).schedule = s.schedule := rfl
@[simp] theorem resetEdge_draws (s : State) : (resetEdge s).draws = s.draws := rfl

@[simp] theorem driveNext_phase (w : HostWord) (s : State) : (driveNext w s).phase = s.phase := rfl
@[simp] theorem driveNext_seedCnt (w : HostWord) (s : State) : (driveNext w s).seedCnt = s.seedCnt := rfl
@[simp] theorem driveNext_clrCnt (w : HostWord) (s : State) : (driveNext w s).clrCnt = s.clrCnt := rfl
@[simp] theorem driveNext_winCnt (w : HostWord) (s : State) : (driveNext w s).winCnt = s.winCnt := rfl
@[simp] theorem driveNext_winData (w : HostWord) (s : State) : (driveNext w s).winData = s.winData := rfl
@[simp] theorem driveNext_outReg (w : HostWord) (s : State) : (driveNext w s).outReg = s.outReg := rfl
@[simp] theorem driveNext_gen (w : HostWord) (s : State) : (driveNext w s).gen = s.gen := rfl
@[simp] theorem driveNext_rstCnt (w : HostWord) (s : State) : (driveNext w s).rstCnt = s.rstCnt := rfl
@[simp] theorem driveNext_outValid (w : HostWord) (s : State) : (driveNext w s).outValid = s.outValid := rfl
@[simp] theorem driveNext_fault (w : HostWord) (s : State) : (driveNext w s).fault = s.fault := rfl
@[simp] theorem driveNext_stepOut (w : HostWord) (s : State) : (driveNext w s).stepOut = s.stepOut := rfl
@[simp] theorem driveNext_schedule (w : HostWord) (s : State) : (driveNext w s).schedule = w :: s.schedule.tail := rfl
@[simp] theorem driveNext_draws (w : HostWord) (s : State) : (driveNext w s).draws = s.draws := rfl

@[simp] theorem beginEdge_decodeCtx (s : State) : (beginEdge s).decodeCtx = s.decodeCtx := rfl
@[simp] theorem reset_decodeCtx : State.reset.decodeCtx = DecodeCtx.powerOn := rfl

end Sys2Proof.Machine
end

