-- ==== Sys2Proof/Laws/Ops.lean ====
section
/-! SUPPORT. One lemma for each shared operation that says everything it can do. -/

namespace Sys2Proof.Machine

/-- `SEED_SETTLE` takes legal values only (R7). -/
theorem seedSettle_pos : 1 ≤ Config.SEED_SETTLE := by simp [Config.SEED_SETTLE]

/-- `CLEAR_SETTLE` takes legal values only (R7). -/
theorem clearSettle_pos : 1 ≤ Config.CLEAR_SETTLE := by simp [Config.CLEAR_SETTLE]

@[simp] theorem genNext_loaded (sd : Byte) (k : Nat) :
    genNext (.loaded sd k) = some (Config.KS sd k, .loaded sd (k + 1)) := rfl

/-- `step()` answers exactly on a loaded generator, with the next keystream byte (R73). -/
theorem genNext_eq_some {g g' : GenState} {b : Byte} :
    genNext g = some (b, g') ↔
      ∃ sd k, g = .loaded sd k ∧ b = Config.KS sd k ∧ g' = .loaded sd (k + 1) := by
  cases g <;> simp [genNext, eq_comm]

theorem stepGen_of_loaded {s : State} {sd : Byte} {k : Nat} (h : s.gen = .loaded sd k) :
    stepGen s = some (Config.KS sd k,
      { s with gen := .loaded sd (k + 1), stepOut := some (Config.KS sd k) }) := by
  simp [stepGen, h]

/-- The generator holds no load: `step()` has no value (R73). -/
theorem stepGen_eq_none {s : State} : stepGen s = none ↔ s.gen = .undef ∨ s.gen = .cleared := by
  cases h : s.gen <;> simp [stepGen, genNext, h]

/-- The seed settle ends at its last edge, else it counts (R85). -/
theorem loadSettle_cases (n : Nat) (s : State) :
    (s.seedCnt + 1 = n ∧ loadSettle n s = { s with phase := .running, winCnt := 0 }) ∨
    (s.seedCnt + 1 ≠ n ∧ loadSettle n s = { s with seedCnt := s.seedCnt + 1 }) := by
  by_cases h : s.seedCnt + 1 = n
  · exact .inl ⟨h, by simp [loadSettle, h]⟩
  · exact .inr ⟨h, by simp [loadSettle, h]⟩

/-- The clear settle ends at its last edge, else it counts (R88). -/
theorem clearSettle_cases (n : Nat) (s : State) :
    (s.clrCnt + 1 = n ∧ clearSettle n s = { s with phase := .awaitSeed }) ∨
    (s.clrCnt + 1 ≠ n ∧ clearSettle n s = { s with clrCnt := s.clrCnt + 1 }) := by
  by_cases h : s.clrCnt + 1 = n
  · exact .inl ⟨h, by simp [clearSettle, h]⟩
  · exact .inr ⟨h, by simp [clearSettle, h]⟩

@[simp] theorem loadSettle_gen (n : Nat) (s : State) : (loadSettle n s).gen = s.gen := by
  rcases loadSettle_cases n s with ⟨_, h⟩ | ⟨_, h⟩ <;> rw [h]

@[simp] theorem loadSettle_outValid (n : Nat) (s : State) : (loadSettle n s).outValid = s.outValid := by
  rcases loadSettle_cases n s with ⟨_, h⟩ | ⟨_, h⟩ <;> rw [h]

@[simp] theorem loadSettle_fault (n : Nat) (s : State) : (loadSettle n s).fault = s.fault := by
  rcases loadSettle_cases n s with ⟨_, h⟩ | ⟨_, h⟩ <;> rw [h]

@[simp] theorem loadSettle_stepOut (n : Nat) (s : State) : (loadSettle n s).stepOut = s.stepOut := by
  rcases loadSettle_cases n s with ⟨_, h⟩ | ⟨_, h⟩ <;> rw [h]

@[simp] theorem clearSettle_gen (n : Nat) (s : State) : (clearSettle n s).gen = s.gen := by
  rcases clearSettle_cases n s with ⟨_, h⟩ | ⟨_, h⟩ <;> rw [h]

@[simp] theorem clearSettle_outValid (n : Nat) (s : State) : (clearSettle n s).outValid = s.outValid := by
  rcases clearSettle_cases n s with ⟨_, h⟩ | ⟨_, h⟩ <;> rw [h]

@[simp] theorem clearSettle_fault (n : Nat) (s : State) : (clearSettle n s).fault = s.fault := by
  rcases clearSettle_cases n s with ⟨_, h⟩ | ⟨_, h⟩ <;> rw [h]

@[simp] theorem clearSettle_stepOut (n : Nat) (s : State) : (clearSettle n s).stepOut = s.stepOut := by
  rcases clearSettle_cases n s with ⟨_, h⟩ | ⟨_, h⟩ <;> rw [h]

/-- The saturating count (R30). -/
theorem bumpRst_val (n : Fin 4) : (bumpRst n).val = min (n.val + 1) 3 := by
  revert n; decide

/-- A step takes the first host word of the schedule, if there is one (R49, R131). -/
theorem takeWord_cases (s : State) :
    (s.schedule = [] ∧ takeWord s = none) ∨
    (∃ w rest, s.schedule = w :: rest ∧
      takeWord s = some (w, { s with schedule := rest, draws := s.draws + 1 })) := by
  cases h : s.schedule with
  | nil => exact .inl ⟨rfl, by simp [takeWord, h]⟩
  | cons w rest => exact .inr ⟨w, rest, rfl, by simp [takeWord, h]⟩

/-- An edge on a quiescent state changes nothing (R75). -/
theorem edge_of_fault {s : State} {m : Misuse} (w : HostWord) (h : s.fault = some m) :
    edge w s = .next s := by simp [edge, faulted, h]

/-- An edge without a misuse runs the row that matches (R74). -/
theorem edge_of_good {s : State} (w : HostWord) (h : s.fault = none) :
    edge w s = exec (decode s.decodeCtx w) s := by simp [edge, faulted, h]

end Sys2Proof.Machine
end

