-- ==== Sys2Proof/Laws/Exec.lean ====
section
/-! SUPPORT. What every meaning has in common: it answers a next state, and the decoder selects edges only. -/

namespace Sys2Proof.Machine

/-- A host word selects one of the 17 rows, never an internal operation (R56, R57). -/
theorem decode_isEdge (k : DecodeCtx) (w : HostWord) : (decode k w).isEdge = true := by
  rcases edge_kind w with he | ⟨he, hr⟩ | ⟨he, hr⟩
  · rw [decode_enaLow he]; rfl
  · rw [decode_rstEdge he hr]; rfl
  · cases hp : k.phase
    · rw [decode_idleReset he hr hp]; repeat' split
      all_goals rfl
    · rw [decode_awaitSeed he hr hp]; repeat' split
      all_goals rfl
    · rw [decode_seedLoading he hr hp]; split <;> rfl
    · rw [decode_running he hr hp]; repeat' split
      all_goals rfl
    · rw [decode_clearing he hr hp]; split <;> rfl

/-- Every meaning answers a next state: a misuse is recorded, it never ends the run (R107). -/
theorem exec_answers (i : Instr) (s : State) : ∃ t, exec i s = .next t := by
  cases i with
  | runUnstable c d => cases h : s.winData <;> exact ⟨_, by simp only [exec, execRunUnstable, h]; rfl⟩
  | runStep c d =>
    cases hg : stepGen (beginEdge s) <;> cases hw : s.winData <;>
      exact ⟨_, by simp only [exec, execRunStep, hg, hw]; rfl⟩
  | genStep => cases hg : stepGen s <;> exact ⟨_, by simp only [exec, execGenStep, hg]; rfl⟩
  | _ => exact ⟨_, rfl⟩

/-- Every edge answers a next state (R74, R75). -/
theorem edge_answers (w : HostWord) (s : State) : ∃ t, edge w s = .next t := by
  cases hf : s.fault with
  | none => rw [edge_of_good w hf]; exact exec_answers _ _
  | some m => exact ⟨s, edge_of_fault w hf⟩

end Sys2Proof.Machine
end

