-- ==== Sys2Proof/Laws/PerInstr.lean ====
section
/-! SUPPORT. Statements made instruction by instruction: `EncodesItsRow` says that an encoding carries the bits
that the instruction's row of the opcode table fixes (R56, R57). -/

namespace Sys2Proof.Laws.EncodesItsRow

/-- The host word of `i` matches the mask and match of the row `i` stands for, and it is there exactly where
`i` stands for a row. -/
def Statement (i : Instr) : Prop :=
  (encode i).isSome = i.isEdge ∧
    ∀ w row, encode i = some w → row ∈ decodeRows → some row.no = i.rowNo → w &&& row.mask = row.bits

/-- A word packed from its fields keeps the pins under the masks of the table. -/
theorem packed_matches {r e : Bit} {c d : Byte} {row : Row}
    (h : (row.mask = 0x10000 ∧ row.bits = packWord 0 e 0 0) ∨
      (row.mask = 0x30000 ∧ row.bits = packWord r e 0 0) ∨
      (row.mask = 0x3FF00 ∧ row.bits = packWord r e c 0)) :
    packWord r e c d &&& row.mask = row.bits := by
  rcases h with ⟨hm, hb⟩ | ⟨hm, hb⟩ | ⟨hm, hb⟩ <;> rw [hm, hb]
  · rw [and_mask_ena, eOf_packWord]
  · rw [and_mask_pins, rOf_packWord, eOf_packWord]
  · rw [and_mask_ctrl, rOf_packWord, eOf_packWord, cOf_packWord]

/-- The row with a given number. -/
def rowNumber (n : Nat) : Option Row := decodeRows.find? fun row => row.no == n

/-- The numbers of the table are the row's own: a row is found under its number. -/
theorem mem_decodeRows {row : Row} (h : row ∈ decodeRows) : rowNumber row.no = some row := by
  simp only [decodeRows, List.cons_append, List.nil_append, List.mem_cons, List.not_mem_nil, or_false] at h
  rcases h with rfl | rfl | rfl | rfl | rfl | rfl | rfl | rfl | rfl | rfl | rfl | rfl | rfl | rfl | rfl | rfl | rfl <;> rfl

theorem enaLow (r : Bit) (c : Byte) (d : Byte) : Statement (.enaLow r c d) := by
  refine ⟨rfl, fun w row h hm hn => ?_⟩
  cases h
  have hr := mem_decodeRows hm
  rw [Option.some.inj hn] at hr
  cases hr
  refine packed_matches ?_
  exact .inl ⟨rfl, by decide⟩

theorem rstEdge (c : Byte) (d : Byte) : Statement (.rstEdge c d) := by
  refine ⟨rfl, fun w row h hm hn => ?_⟩
  cases h
  have hr := mem_decodeRows hm
  rw [Option.some.inj hn] at hr
  cases hr
  refine packed_matches ?_
  exact .inr (.inl ⟨rfl, by decide⟩)

theorem releaseShort (c : Byte) (d : Byte) : Statement (.releaseShort c d) := by
  refine ⟨rfl, fun w row h hm hn => ?_⟩
  cases h
  have hr := mem_decodeRows hm
  rw [Option.some.inj hn] at hr
  cases hr
  refine packed_matches ?_
  exact .inr (.inl ⟨rfl, by decide⟩)

theorem releaseCtrl (c : Byte) (d : Byte) : Statement (.releaseCtrl c d) := by
  refine ⟨rfl, fun w row h hm hn => ?_⟩
  cases h
  have hr := mem_decodeRows hm
  rw [Option.some.inj hn] at hr
  cases hr
  refine packed_matches ?_
  exact .inr (.inl ⟨rfl, by decide⟩)

theorem release (d : Byte) : Statement (.release d) := by
  refine ⟨rfl, fun w row h hm hn => ?_⟩
  cases h
  have hr := mem_decodeRows hm
  rw [Option.some.inj hn] at hr
  cases hr
  refine packed_matches ?_
  exact .inr (.inr ⟨rfl, by decide⟩)

theorem awaitNormal (d : Byte) : Statement (.awaitNormal d) := by
  refine ⟨rfl, fun w row h hm hn => ?_⟩
  cases h
  have hr := mem_decodeRows hm
  rw [Option.some.inj hn] at hr
  cases hr
  refine packed_matches ?_
  exact .inr (.inr ⟨rfl, by decide⟩)

theorem seedFf (d : Byte) : Statement (.seedFf d) := by
  refine ⟨rfl, fun w row h hm hn => ?_⟩
  cases h
  have hr := mem_decodeRows hm
  rw [Option.some.inj hn] at hr
  cases hr
  refine packed_matches ?_
  exact .inr (.inr ⟨rfl, by decide⟩)

theorem seed (c : Byte) (d : Byte) : Statement (.seed c d) := by
  refine ⟨rfl, fun w row h hm hn => ?_⟩
  cases h
  have hr := mem_decodeRows hm
  rw [Option.some.inj hn] at hr
  cases hr
  refine packed_matches ?_
  exact .inr (.inl ⟨rfl, by decide⟩)

theorem loadFf (d : Byte) : Statement (.loadFf d) := by
  refine ⟨rfl, fun w row h hm hn => ?_⟩
  cases h
  have hr := mem_decodeRows hm
  rw [Option.some.inj hn] at hr
  cases hr
  refine packed_matches ?_
  exact .inr (.inr ⟨rfl, by decide⟩)

theorem loadTick (c : Byte) (d : Byte) : Statement (.loadTick c d) := by
  refine ⟨rfl, fun w row h hm hn => ?_⟩
  cases h
  have hr := mem_decodeRows hm
  rw [Option.some.inj hn] at hr
  cases hr
  refine packed_matches ?_
  exact .inr (.inl ⟨rfl, by decide⟩)

theorem runReset (d : Byte) : Statement (.runReset d) := by
  refine ⟨rfl, fun w row h hm hn => ?_⟩
  cases h
  have hr := mem_decodeRows hm
  rw [Option.some.inj hn] at hr
  cases hr
  refine packed_matches ?_
  exact .inr (.inr ⟨rfl, by decide⟩)

theorem runLatch (c : Byte) (d : Byte) : Statement (.runLatch c d) := by
  refine ⟨rfl, fun w row h hm hn => ?_⟩
  cases h
  have hr := mem_decodeRows hm
  rw [Option.some.inj hn] at hr
  cases hr
  refine packed_matches ?_
  exact .inr (.inl ⟨rfl, by decide⟩)

theorem runUnstable (c : Byte) (d : Byte) : Statement (.runUnstable c d) := by
  refine ⟨rfl, fun w row h hm hn => ?_⟩
  cases h
  have hr := mem_decodeRows hm
  rw [Option.some.inj hn] at hr
  cases hr
  refine packed_matches ?_
  exact .inr (.inl ⟨rfl, by decide⟩)

theorem runTick (c : Byte) (d : Byte) : Statement (.runTick c d) := by
  refine ⟨rfl, fun w row h hm hn => ?_⟩
  cases h
  have hr := mem_decodeRows hm
  rw [Option.some.inj hn] at hr
  cases hr
  refine packed_matches ?_
  exact .inr (.inl ⟨rfl, by decide⟩)

theorem runStep (c : Byte) (d : Byte) : Statement (.runStep c d) := by
  refine ⟨rfl, fun w row h hm hn => ?_⟩
  cases h
  have hr := mem_decodeRows hm
  rw [Option.some.inj hn] at hr
  cases hr
  refine packed_matches ?_
  exact .inr (.inl ⟨rfl, by decide⟩)

theorem clearBad (c : Byte) (d : Byte) : Statement (.clearBad c d) := by
  refine ⟨rfl, fun w row h hm hn => ?_⟩
  cases h
  have hr := mem_decodeRows hm
  rw [Option.some.inj hn] at hr
  cases hr
  refine packed_matches ?_
  exact .inr (.inl ⟨rfl, by decide⟩)

theorem clearTick (d : Byte) : Statement (.clearTick d) := by
  refine ⟨rfl, fun w row h hm hn => ?_⟩
  cases h
  have hr := mem_decodeRows hm
  rw [Option.some.inj hn] at hr
  cases hr
  refine packed_matches ?_
  exact .inr (.inr ⟨rfl, by decide⟩)

theorem genLoad (s : Byte) : Statement (.genLoad s) := by
  exact ⟨rfl, fun _ _ h => by cases h⟩

theorem genClear : Statement (.genClear) := by
  exact ⟨rfl, fun _ _ h => by cases h⟩

theorem genStep : Statement (.genStep) := by
  exact ⟨rfl, fun _ _ h => by cases h⟩

end Sys2Proof.Laws.EncodesItsRow
end

