-- ==== Sys2Proof/Laws/Runs.lean ====
section
/-! SUPPORT. One unfolding of each run function, and the relation of Safety.lean that leaves recorded values out. -/

namespace Sys2Proof.Machine

theorem SameButRecord.refl (s : State) : SameButRecord s s := ⟨rfl, rfl, fun _ => ⟨rfl, rfl, rfl⟩⟩

/-- Two misuses with one code leave states that differ in the record only. -/
theorem sameButRecord_raise {m m' : Misuse} (s : State) (h : m.code = m'.code) :
    SameButRecord (raise m s) (raise m' s) := by
  refine ⟨rfl, ?_⟩
  cases hf : s.fault <;> simp [hf, h]

@[simp] theorem stepN_zero (s : State) : stepN 0 s = .next s := rfl

/-- One more step of the machine's own schedule. -/
theorem stepN_succ_of_next {s t : State} (n : Nat) (h : step s = .next t) : stepN (n + 1) s = stepN n t := by
  simp [stepN, h]

/-- A step on a schedule is the edge of its first host word (R11, R49). -/
theorem step_of_schedule {s : State} {w : HostWord} {rest : List HostWord} (h : s.schedule = w :: rest) :
    step s = edge w { s with schedule := rest, draws := s.draws + 1 } := by
  simp [step, takeWord, h]

@[simp] theorem edges_nil (s : State) : edges [] s = .next s := rfl

theorem edges_cons_of_next {s t : State} {w : HostWord} (ws : List HostWord) (h : edge w s = .next t) :
    edges (w :: ws) s = edges ws t := by simp [edges, h]

@[simp] theorem runSchedule_nil (x : Run) : runSchedule [] x = .next x := rfl

theorem runSchedule_cons_of_next {x y : Run} {st : Stmt} (rest : List Stmt) (h : runStmt x st = .next y) :
    runSchedule (st :: rest) x = runSchedule rest y := by simp [runSchedule, h]

/-- Schedules run one after the other. -/
theorem runSchedule_append {a b : List Stmt} {x y : Run} (h : runSchedule a x = .next y) :
    runSchedule (a ++ b) x = runSchedule b y := by
  induction a generalizing x with
  | nil => cases h; rfl
  | cons st a ih =>
    simp only [List.cons_append, runSchedule] at h ⊢
    cases hs : runStmt x st with
    | next z => rw [hs] at h; exact ih h
    | fault f => rw [hs] at h; cases h
    | refused r => rw [hs] at h; cases h

/-- An `E` statement is the edge of its host word (R61). -/
theorem runStmt_edge (x : Run) (w : HostWord) {t : State}
    (h : edge w { x.state with schedule := x.state.schedule.tail, draws := x.state.draws + 1 } = .next t) :
    runStmt x (.edge w) = .next { x with state := t } := by
  have hs : step (driveNext w x.state) =
      edge w { x.state with schedule := x.state.schedule.tail, draws := x.state.draws + 1 } :=
    step_of_schedule rfl
  simp only [runStmt, hs, h]

/-- An `OBS` statement reads `data_out` (R61, R122). -/
@[simp] theorem runStmt_obs (x : Run) :
    runStmt x .obs = .next { state := x.state.observe.2, result := x.result ++ [x.state.dataOut] } := rfl

@[simp] theorem record_beginEdge (s : State) :
    (beginEdge s).record = { s.record with outValid := false } := rfl

end Sys2Proof.Machine
end

