-- ==== Sys2Proof/Tests/Slice0.lean ====
section
/-! SUPPORT. Tests and witnesses. Every expected value comes from the spec: the host words and rows from the
vectors V30 of spec/95_test_vectors.md, the results from V40 to V42 and from the examples of the rules. -/

namespace Sys2Proof.Tests

open Sys2Proof.Machine

/-- A state in a phase, otherwise as at power-on. -/
def inPhase (p : Phase) : State := { State.reset with phase := p }

/-- Inside a window of `0x35` with the load `0xBB` (R96, R97). -/
def inWindow (n : Fin 8) (k : Nat) : State :=
  { inPhase .running with winCnt := n, winData := some 0x35, gen := .loaded 0xBB k }

/-- The state of an answer, where it is a next state. -/
def after : Result → Option State
  | .next t => some t
  | .fault _ => none
  | .refused _ => none

/-! ## WellFormed: an ill-formed term for each check -/

theorem test_wf_releaseCtrl_normal : (Instr.releaseCtrl 0x00 0x12).wf = false := by decide
theorem test_wf_seed_normal : (Instr.seed 0x00 0x12).wf = false := by decide
theorem test_wf_seed_reset : (Instr.seed 0xFF 0x12).wf = false := by decide
theorem test_wf_seed_bounds : (Instr.seed 0x01 0x12).wf = true ∧ (Instr.seed 0xFE 0x12).wf = true := by decide
theorem test_wf_loadTick_reset : (Instr.loadTick 0xFF 0x12).wf = false := by decide
theorem test_wf_runLatch_reset : (Instr.runLatch 0xFF 0x12).wf = false := by decide
theorem test_wf_runUnstable_reset : (Instr.runUnstable 0xFF 0x12).wf = false := by decide
theorem test_wf_runTick_reset : (Instr.runTick 0xFF 0x12).wf = false := by decide
theorem test_wf_runStep_reset : (Instr.runStep 0xFF 0x12).wf = false := by decide
theorem test_wf_clearBad_normal : (Instr.clearBad 0x00 0x12).wf = false := by decide
theorem test_selected_other_phase : (Instr.seed 0xBB 0x00).selectedIn ⟨.running, 0, 0, none⟩ = false := by decide
theorem test_selected_internal : Instr.genClear.selectedIn ⟨.running, 0, 7, some 0x35⟩ = false := by decide

/-! ## Decode: for each row a word written out as r, e, c, d (R52; V30-1 to V30-20) -/

theorem test_decode_enaLow :
    decode ⟨.running, 0, 0, none⟩ 0b000000000000000000 = .enaLow 0 0x00 0x00 := by decide
theorem test_decode_enaLow_released :
    decode ⟨.running, 0, 0, none⟩ 0b101011101100110101 = .enaLow 1 0xBB 0x35 := by decide
theorem test_decode_rstEdge :
    decode ⟨.running, 0, 0, none⟩ 0b011111111100110101 = .rstEdge 0xFF 0x35 := by decide
theorem test_decode_releaseShort :
    decode ⟨.idleReset, 2, 0, none⟩ 0b110000000000000000 = .releaseShort 0x00 0x00 := by decide
theorem test_decode_releaseCtrl :
    decode ⟨.idleReset, 3, 0, none⟩ 0b111011101100000000 = .releaseCtrl 0xBB 0x00 := by decide
theorem test_decode_release :
    decode ⟨.idleReset, 3, 0, none⟩ 0b110000000000000000 = .release 0x00 := by decide
theorem test_decode_awaitNormal :
    decode ⟨.awaitSeed, 0, 0, none⟩ 0b110000000000110101 = .awaitNormal 0x35 := by decide
theorem test_decode_seedFf :
    decode ⟨.awaitSeed, 0, 0, none⟩ 0b111111111100000000 = .seedFf 0x00 := by decide
theorem test_decode_seed :
    decode ⟨.awaitSeed, 0, 0, none⟩ 0b111011101100000000 = .seed 0xBB 0x00 := by decide
theorem test_decode_seed_bounds :
    decode ⟨.awaitSeed, 0, 0, none⟩ 0b110000000100000000 = .seed 0x01 0x00 ∧
    decode ⟨.awaitSeed, 0, 0, none⟩ 0b111111111000000000 = .seed 0xFE 0x00 := by decide
theorem test_decode_loadFf :
    decode ⟨.seedLoading, 0, 0, none⟩ 0b111111111100000000 = .loadFf 0x00 := by decide
theorem test_decode_loadTick :
    decode ⟨.seedLoading, 0, 0, none⟩ 0b110100001000000000 = .loadTick 0x42 0x00 := by decide
theorem test_decode_runReset :
    decode ⟨.running, 0, 7, some 0x34⟩ 0b111111111100110101 = .runReset 0x35 := by decide
theorem test_decode_runLatch :
    decode ⟨.running, 0, 0, none⟩ 0b110100001000110101 = .runLatch 0x42 0x35 := by decide
theorem test_decode_runUnstable :
    decode ⟨.running, 0, 3, some 0x35⟩ 0b110000000000110110 = .runUnstable 0x00 0x36 := by decide
theorem test_decode_runTick :
    decode ⟨.running, 0, 6, some 0x35⟩ 0b110000000000110101 = .runTick 0x00 0x35 := by decide
theorem test_decode_runStep :
    decode ⟨.running, 0, 7, some 0x35⟩ 0b110000000000110101 = .runStep 0x00 0x35 := by decide
theorem test_decode_clearBad :
    decode ⟨.clearing, 0, 0, none⟩ 0b110000000100000000 = .clearBad 0x01 0x00 := by decide
theorem test_decode_clearTick :
    decode ⟨.clearing, 0, 0, none⟩ 0b110000000010101010 = .clearTick 0xAA := by decide
/-- The internal operations have no word (R57). -/
theorem test_encode_internal :
    encode (.genLoad 0xBB) = none ∧ encode .genClear = none ∧ encode .genStep = none := by decide
theorem test_encode_example : encode (.seed 0xBB 0x35) = some 0x3BB35 := by decide
theorem test_decodeNat_wide : decodeNat .powerOn 0x40000 = .error .notHostWord := by decide
theorem test_decodeTableWord : decodeTableWord 18 0x10000 = some (.rstEdge 0x00 0x00) := by decide
theorem test_decodeTableWord_wide : decodeTableWord 24 0x50000 = none := by decide

/-! ## One edge or operation for each instruction -/

/-- V40-2: a load forgets the load before it. -/
theorem test_genLoad : (after (exec (.genLoad 0xBB) { State.reset with gen := .loaded 0x42 9 })).map
    (·.gen) = some (.loaded 0xBB 0) := by decide
/-- V40-6. -/
theorem test_genClear : (after (exec .genClear { State.reset with gen := .loaded 0xBB 4 })).map
    (·.gen) = some .cleared := by decide
/-- V40-5: the step returns `KS(0xBB, 3)`. -/
theorem test_genStep : (after (exec .genStep { State.reset with gen := .loaded 0xBB 3 })).map
    (fun t => (t.gen, t.stepOut)) = some (.loaded 0xBB 4, some (Config.KS 0xBB 3)) := rfl
/-- V40-8. -/
theorem test_genStep_cleared : (after (exec .genStep { State.reset with gen := .cleared })).map
    (fun t => t.fault.map Misuse.code) = some (some .M8) := by decide
/-- V41-19: `ena = 0` comes before the reset line. -/
theorem test_enaLow : (after (edge 0x00000 State.reset)).map
    (fun t => (t.fault.map Misuse.code, t.rstCnt)) = some (some .M2, 0) := by decide
/-- The example of R77. -/
theorem test_rstEdge : (after (edge 0x1FF35 { inWindow 3 2 with outValid := false })).map
    (fun t => (t.phase, t.gen, t.rstCnt, t.winData)) = some (.idleReset, .undef, 1, some 0x35) := by decide
/-- V41-2: `rst_cnt` saturates at 3. -/
theorem test_rstEdge_saturates : (after (edge 0x10000 { State.reset with rstCnt := 3 })).map
    (·.rstCnt) = some 3 := by decide
/-- V41-4. -/
theorem test_releaseShort : (after (edge 0x30000 { State.reset with rstCnt := 2 })).map
    (fun t => (t.fault, t.rstCnt)) = some (some (.resetShort 0x30000), 2) := by decide
/-- V41-5. -/
theorem test_releaseCtrl : (after (edge 0x3BB00 { State.reset with rstCnt := 3 })).map
    (·.fault) = some (some (.releaseCtrl 0x3BB00)) := by decide
/-- V41-1. -/
theorem test_release : (after (edge 0x30000 { State.reset with rstCnt := 3 })).map
    (fun t => (t.phase, t.gen, t.rstCnt)) = some (.awaitSeed, .undef, 0) := by decide
/-- V41-6, one edge of it. -/
theorem test_awaitNormal : (after (edge 0x30035 (inPhase .awaitSeed))).map
    (fun t => (t.phase, t.gen, t.winData)) = some (.awaitSeed, .undef, none) := by decide
/-- V41-7. -/
theorem test_seedFf : (after (edge 0x3FF00 (inPhase .awaitSeed))).map
    (fun t => (t.phase, t.fault)) = some (.awaitSeed, some (.seedReserved 0x3FF00)) := by decide
/-- V41-8. -/
theorem test_seed : (after (edge 0x3BB00 { inPhase .awaitSeed with gen := .cleared, seedCnt := 5 })).map
    (fun t => (t.phase, t.seedCnt, t.gen)) = some (.seedLoading, 0, .loaded 0xBB 0) := by decide
/-- V41-10. -/
theorem test_loadFf : (after (edge 0x3FF00 { inPhase .seedLoading with gen := .loaded 0xBB 0 })).map
    (fun t => (t.gen, t.fault)) = some (.loaded 0xBB 0, some (.resetInLoading 0x3FF00 0)) := by decide
/-- V41-9 with `SEED_SETTLE` = 1. -/
theorem test_loadTick_last : (loadSettle 1 { inPhase .seedLoading with winCnt := 5 }).phase = .running ∧
    (loadSettle 1 { inPhase .seedLoading with winCnt := 5 }).winCnt = 0 := by decide
/-- V41-9 with `SEED_SETTLE` = 2. -/
theorem test_loadTick_counts : (loadSettle 2 (inPhase .seedLoading)).phase = .seedLoading ∧
    (loadSettle 2 (inPhase .seedLoading)).seedCnt = 1 := by decide
/-- The example of R86. -/
theorem test_runReset : (after (edge 0x3FF00 { inWindow 3 2 with clrCnt := 1 })).map
    (fun t => (t.phase, t.clrCnt, t.gen)) = some (.clearing, 0, .cleared) := by decide
/-- V41-14: at the last edge of a window, with the data byte changed. -/
theorem test_runReset_last : (after (edge 0x3FF36 (inWindow 7 2))).map
    (fun t => (t.phase, t.outValid, t.fault)) = some (.clearing, false, none) := by decide
/-- The example of R94. -/
theorem test_runLatch : (after (edge 0x30035 { inWindow 0 1 with winData := some 0x77, outValid := true })).map
    (fun t => (t.winData, t.winCnt, t.outValid)) = some (some 0x35, 1, false) := by decide
/-- The example of R95. -/
theorem test_runUnstable : (after (edge 0x300AD (inWindow 3 0))).map
    (·.fault) = some (some (.dataUnstable 0x300AD 3 0x35)) := by decide
/-- A byte never written is not a byte (R34). -/
theorem test_runUnstable_unwritten : (after (edge 0x30035 { inWindow 3 0 with winData := none })).map
    (·.fault) = some (some (.undefRead .winData)) := by decide
/-- The example of R96. -/
theorem test_runTick : (after (edge 0x30035 (inWindow 6 0))).map
    (fun t => (t.winCnt, t.gen, t.outValid)) = some (7, .loaded 0xBB 0, false) := by decide
/-- The example of R97 for every keystream. -/
theorem test_runStep : (after (exec (.runStep 0x00 0x35) (inWindow 7 0))).map
    (fun t => (t.outReg, t.outValid, t.gen, t.winCnt)) =
      some (some (0x35 ^^^ Config.KS 0xBB 0), true, .loaded 0xBB 1, 0) := rfl
/-- The arithmetic of the example of R97, and V42-13. -/
theorem test_combine : combine 0x35 0x5A = 0x6F ∧ combine 0x80 0x01 = 0x81 := by decide
/-- The example of R87. -/
theorem test_clearBad : (after (edge 0x3FF00 { inPhase .clearing with clrCnt := 1 })).map
    (·.fault) = some (some (.ctrlInClearing 0x3FF00 1)) := by decide
/-- The example of R88, last edge of `CLEAR_SETTLE` = 2. -/
theorem test_clearTick_last : (clearSettle 2 { inPhase .clearing with clrCnt := 1 }).phase = .awaitSeed := by decide
theorem test_clearTick_counts : (clearSettle 2 (inPhase .clearing)).phase = .clearing ∧
    (clearSettle 2 (inPhase .clearing)).clrCnt = 1 := by decide
/-- V60-1, one edge of it: a reset edge does not clear a fault. -/
theorem test_fault_sticky : (after (edge 0x10000
    { inPhase .awaitSeed with fault := some (.seedReserved 0x3FF00) })).map
    (fun t => (t.phase, t.fault)) = some (.awaitSeed, some (.seedReserved 0x3FF00)) := by decide
/-- The step takes the host word of the schedule. -/
theorem test_step : (after (step { State.reset with schedule := [0x10000, 0x30000] })).map
    (fun t => (t.rstCnt, t.schedule)) = some (1, [0x30000]) := by decide
theorem test_withFetchWord : (after (step (State.reset.withFetchWord 24 0x30000))).map
    (fun t => t.fault.map Misuse.code) = some (some .M1) := by decide

/-- The last edge of a window, in full, where the host word decodes to `RUN_STEP` (R97). -/
theorem lastEdge (s : State) (w : HostWord) (b : Byte) (k : Nat) (hw : decode s.decodeCtx w = .runStep (cOf w) b)
    (hg : s.gen = .loaded 0xBB k) (hd : s.winData = some b) (hf : s.fault = none) :
    edge w s = exec (.runStep (cOf w) b) s ∧ exec (.runStep (cOf w) b) s = .next { s with
      gen := .loaded 0xBB (k + 1), stepOut := some (Config.KS 0xBB k), outReg := some (combine b (Config.KS 0xBB k)),
      outValid := true, winCnt := 0 } := by
  constructor
  · simp [edge, faulted, hf, hw]
  · simp [exec, execRunStep, stepGen, genNext, beginEdge, hg, hd]

theorem lastEdge_inWindow (k : Nat) : edge 0x30035 (inWindow 7 k) = exec (.runStep 0x00 0x35) (inWindow 7 k) ∧
    exec (.runStep 0x00 0x35) (inWindow 7 k) = .next { inWindow 7 k with
      gen := .loaded 0xBB (k + 1), stepOut := some (Config.KS 0xBB k),
      outReg := some (combine 0x35 (Config.KS 0xBB k)), outValid := true, winCnt := 0 } :=
  lastEdge _ 0x30035 0x35 k (show decode ⟨.running, 0, 7, some 0x35⟩ 0x30035 = _ by decide) rfl rfl rfl

/-! ## Witnesses: for each statement with hypotheses, data that meet all of them together -/

theorem witness_genLoad_selected : decode ⟨.awaitSeed, 0, 0, none⟩ 0x30100 = .seed 0x01 0x00 ∧
    decode ⟨.awaitSeed, 0, 0, none⟩ 0x3FE00 = .seed 0xFE 0x00 := by decide
theorem witness_genLoad_otherEdges : ∃ i s t, Instr.isEdge i = true ∧ (∀ c d, i ≠ .seed c d) ∧ exec i s = .next t :=
  ⟨.runStep 0 0x35, inWindow 7 0, _, rfl, by simp, (lastEdge_inWindow 0).2⟩
theorem witness_genClear : ∃ i s t, Instr.isEdge i = true ∧ (∀ d, i ≠ .runReset d) ∧ exec i s = .next t ∧
    t.gen = .cleared := ⟨.awaitNormal 0, { inPhase .awaitSeed with gen := .cleared }, _, rfl, by simp, rfl, rfl⟩
theorem witness_genStep : (inWindow 7 5).gen = .loaded 0xBB 5 ∧
    (State.reset.gen = .undef ∨ State.reset.gen = .cleared) ∧ State.reset.fault = none ∧
    (({ State.reset with gen := .cleared } : State).gen = .undef ∨
      ({ State.reset with gen := .cleared } : State).gen = .cleared) := by decide
theorem witness_genStep_runStep : ∃ i s t, Instr.isEdge i = true ∧ exec i s = .next t ∧
    s.gen = .loaded 0xBB 0 ∧ t.gen = .loaded 0xBB (0 + 1) ∧ (∃ k w c d, decode k w = .runStep c d) :=
  ⟨.runStep 0 0x35, inWindow 7 0, _, rfl, (lastEdge_inWindow 0).2, rfl, rfl,
    ⟨.running, 0, 7, some 0x35⟩, 0x30035, 0x00, 0x35, by decide⟩
theorem witness_stepOut : (inWindow 7 0).gen = .loaded 0xBB 0 ∧ (inWindow 7 0).winData = some 0x35 ∧
    ∃ i t x, Instr.isEdge i = true ∧ exec i (inWindow 7 0) = .next t ∧ t.stepOut = some x :=
  ⟨rfl, rfl, .runStep 0 0x35, _, _, rfl, (lastEdge_inWindow 0).2, rfl⟩
theorem witness_genNext : genNext (inWindow 7 0).gen = some (Config.KS 0xBB 0, .loaded 0xBB 1) := rfl

/-- A concrete generator whose keystream is `KS`. -/
def tableGenerator : Generator (Byte × Nat) where
  load sd := (sd, 0)
  step x := ((x.1, x.2 + 1), Config.KS x.1 x.2)
  clearState := (0, 0)

theorem tableGenerator_sigma (sd : Byte) (k : Nat) : tableGenerator.sigma sd k = (sd, k) := by
  induction k with
  | zero => rfl
  | succ k ih =>
    show (tableGenerator.step (tableGenerator.sigma sd k)).1 = (sd, k + 1)
    rw [ih]
    rfl

theorem witness_concreteGenerator : (∀ sd k, tableGenerator.keystream sd k = Config.KS sd k) ∧
    genNext (.loaded 0xBB 0) = some (Config.KS 0xBB 0, .loaded 0xBB 1) ∧
    tableGenerator.concrete (.loaded 0xBB 0) = some (0xBB, 0) :=
  ⟨fun sd k => by
    show (tableGenerator.step (tableGenerator.sigma sd k)).2 = _
    rw [tableGenerator_sigma]
    rfl, rfl, rfl⟩

/-- The same window with another data byte and another control byte. -/
def otherWindow : State := { inWindow 7 2 with winData := some 0x77, seedCnt := 9 }

theorem witness_keystreamDepends : ∃ s s' t t' w w', (s : State).gen = s'.gen ∧ s.fault = none ∧
    s'.fault = none ∧ edge w s = .next t ∧ edge w' s' = .next t' ∧ t.outValid = true ∧ t'.outValid = true :=
  have h := lastEdge otherWindow 0x34277 0x77 2
    (show decode ⟨.running, 0, 7, some 0x77⟩ 0x34277 = _ by decide) rfl rfl rfl
  ⟨inWindow 7 2, otherWindow, _, _, 0x30035, 0x34277, rfl, rfl, rfl,
    (lastEdge_inWindow 2).1.trans (lastEdge_inWindow 2).2, h.1.trans h.2, rfl, rfl⟩
theorem witness_controlClasses : Live 0x30135 ∧ Live 0x3FE35 ∧ ctrlClass (cOf 0x30135) = ctrlClass (cOf 0x3FE35) ∧
    dOf 0x30135 = dOf 0x3FE35 := by unfold Live; decide
theorem witness_seedOperand : Live 0x30100 ∧ (0x01 ≤ seedOperand 0x30100 ∧ seedOperand 0x30100 ≤ 0xFE) ∧
    Live 0x3FE00 ∧ (0x01 ≤ seedOperand 0x3FE00 ∧ seedOperand 0x3FE00 ≤ 0xFE) ∧
    Live 0x30000 ∧ seedOperand 0x30000 = 0x00 ∧ Live 0x3FF00 ∧ seedOperand 0x3FF00 = 0xFF ∧
    decode ⟨.awaitSeed, 0, 0, none⟩ 0x3BB00 = .seed 0xBB 0x00 := by unfold Live; decide
theorem witness_dataOperand : (inWindow 0 0).fault = none ∧ (inWindow 0 0).phase = .running ∧
    (inWindow 0 0).winCnt = 0 ∧ Quiet 0x342FF ∧ Quiet 0x30000 ∧ (0xFE : Byte) ≠ 0xFF := by unfold Quiet Live; decide
theorem witness_decodeOfEncode : (Instr.runStep 0x42 0x35).wf = true ∧
    (Instr.runStep 0x42 0x35).selectedIn ⟨.running, 0, 7, some 0x35⟩ = true ∧
    encode (.runStep 0x42 0x35) = some 0x34235 := by decide
theorem witness_internalOperations : (inWindow 7 4).gen = .loaded 0xBB 4 ∧ (inWindow 7 4).winData = some 0x35 := by
  decide
theorem witness_widerNumbers : 2 ^ 18 ≤ 0x40000 ∧ 0x3FFFF < 2 ^ 18 := by decide
theorem witness_stepRuns : ({ inPhase .awaitSeed with schedule := [0x3BB00] } : State).schedule = 0x3BB00 :: [] ∧
    ({ inPhase .awaitSeed with schedule := [0x3BB00] } : State).fault = none := by decide
theorem witness_faultedEdges : ({ State.reset with fault := some (.enaLow 0), schedule := [0x10000] } : State).fault =
      some (.enaLow 0) ∧
    ({ State.reset with fault := some (.enaLow 0), schedule := [0x10000] } : State).schedule = 0x10000 :: [] := by
  decide
theorem witness_stepCompletes : ({ State.reset with schedule := [0x10000] } : State).schedule ≠ [] ∧
    State.reset.schedule = [] := by decide
theorem witness_firstHostWord : decodeTableWord 18 0x3BB00 = some (.releaseShort 0xBB 0x00) := by decide
theorem witness_edgePriority : (inWindow 7 0).fault = none ∧ eOf 0x00000 = 0 ∧ ResetEdge 0x1FF00 ∧
    (inWindow 7 0).phase = .running ∧ Live 0x3FF36 ∧ cOf 0x3FF36 = 0xFF ∧
    ({ State.reset with fault := some (.enaLow 0) } : State).fault = some (.enaLow 0) := by
  unfold ResetEdge Live; decide
theorem witness_noMisuse : State.reset.fault = none := by decide
theorem witness_runUnstable : (inWindow 1 0).fault = none ∧ (inWindow 1 0).winData = some 0x35 ∧
    ({ inWindow 7 0 with winData := none } : State).winData = none := by decide
theorem witness_release : ({ State.reset with rstCnt := 3 } : State).fault = none ∧
    ({ State.reset with rstCnt := 3 } : State).phase = .idleReset ∧
    ({ State.reset with rstCnt := 3 } : State).rstCnt = 3 ∧ NormalEdge 0x300AA := by unfold NormalEdge Live; decide
theorem witness_awaitNormal : (inPhase .awaitSeed).fault = none ∧ (inPhase .awaitSeed).phase = .awaitSeed ∧
    (∀ w ∈ [(0x30000 : HostWord), 0x30035], NormalEdge w) ∧ [(0x30000 : HostWord), 0x30035] ≠ [] :=
  ⟨rfl, rfl, by simp [NormalEdge, Live, eOf, rOf, cOf], List.cons_ne_nil _ _⟩
theorem witness_seedAccept : (inPhase .awaitSeed).fault = none ∧ (inPhase .awaitSeed).phase = .awaitSeed ∧
    Live 0x30100 ∧ 0x01 ≤ cOf 0x30100 ∧ cOf 0x30100 ≤ 0xFE ∧
    Live 0x3FE00 ∧ 0x01 ≤ cOf 0x3FE00 ∧ cOf 0x3FE00 ≤ 0xFE := by unfold Live; decide
theorem witness_loadTick :
    ({ inPhase .seedLoading with seedCnt := Config.seedSettlePred } : State).seedCnt + 1 = Config.SEED_SETTLE ∧
    ({ inPhase .seedLoading with seedCnt := Config.SEED_SETTLE } : State).seedCnt + 1 ≠ Config.SEED_SETTLE :=
  ⟨rfl, by simp⟩
theorem witness_runReset : (inWindow 7 0).fault = none ∧ (inWindow 7 0).phase = .running ∧ Live 0x3FF36 ∧
    cOf 0x3FF36 = 0xFF := by unfold Live; decide
theorem witness_clearTick :
    ({ inPhase .clearing with clrCnt := Config.clearSettlePred } : State).clrCnt + 1 = Config.CLEAR_SETTLE ∧
    ({ inPhase .clearing with clrCnt := Config.CLEAR_SETTLE } : State).clrCnt + 1 ≠ Config.CLEAR_SETTLE :=
  ⟨rfl, by simp⟩
theorem witness_runLatch : (inWindow 0 0).fault = none ∧ (inWindow 0 0).phase = .running ∧
    (inWindow 0 0).winCnt = 0 ∧ Quiet 0x34235 := by unfold Quiet Live; decide
theorem witness_runTick : ∀ n ∈ [(1 : Fin 8), 6], (inWindow n 0).fault = none ∧
    (inWindow n 0).phase = .running ∧ Quiet 0x30035 ∧ 1 ≤ (inWindow n 0).winCnt.val ∧
    (inWindow n 0).winCnt.val ≤ 6 ∧ (inWindow n 0).winData = some (dOf 0x30035) := by unfold Quiet Live; decide
theorem witness_runStep : (inWindow 7 0).gen = .loaded 0xBB 0 ∧ (inWindow 7 0).winData = some 0x35 ∧
    (inWindow 7 0).fault = none ∧ ({ inWindow 7 0 with gen := .cleared } : State).gen = .cleared ∧
    ({ inWindow 7 0 with gen := .undef } : State).gen = .undef ∧
    ({ inWindow 7 0 with winData := none } : State).winData = none := by decide
theorem witness_combiner : (inWindow 7 1).gen = .loaded 0xBB 1 ∧ (inWindow 7 1).winData = some 0x35 := by decide

/-- A state inside a window meets the invariant. -/
theorem inWindow_inv (k : Nat) : Inv { inWindow 7 k with schedule := [0x30035] } where
  gen := ⟨0xBB, k, by decide, rfl⟩
  seedCnt h := by cases h
  clrCnt h := by cases h
  winData _ _ := rfl
  rstCnt _ := rfl
  output h := by cases h
  stepOut := rfl
  noUndefRead f h := by cases h

theorem witness_invariant : ∃ s t, Inv s ∧ step s = .next t ∧ t.outValid = true :=
  have h := lastEdge { inWindow 7 0 with draws := 1 } 0x30035 0x35 0
    (show decode ⟨.running, 0, 7, some 0x35⟩ 0x30035 = _ by decide) rfl rfl rfl
  ⟨{ inWindow 7 0 with schedule := [0x30035] }, _, inWindow_inv 0, h.1.trans h.2, rfl⟩
theorem witness_sticky : ∃ i s t n u, exec i s = .next t ∧ s.fault = some (.enaLow 0) ∧
    stepN n s = .next u ∧ n = 1 :=
  ⟨.seedFf 0, { inPhase .awaitSeed with fault := some (.enaLow 0), schedule := [0x10000] }, _, 1, _, rfl, rfl,
    rfl, rfl⟩
theorem witness_fieldWriters : ∃ i s t, exec i s = .next t ∧ t.phase ≠ s.phase ∧ t.gen ≠ s.gen ∧
    t.seedCnt ≠ s.seedCnt :=
  ⟨.seed 0xBB 0, { inPhase .awaitSeed with seedCnt := 1 }, _, rfl, by decide, by decide, by decide⟩
theorem witness_fieldWriters_window : ∃ i s t j u, exec i s = .next t ∧ t.winData ≠ s.winData ∧
    t.winCnt ≠ s.winCnt ∧ exec j s = .next u ∧ u.fault ≠ s.fault :=
  ⟨.runLatch 0 0x35, inPhase .running, _, .enaLow 0 0 0, _, rfl, by decide, by decide, rfl, by decide⟩
theorem witness_fieldWriters_output : ∃ i s t, exec i s = .next t ∧ t.outReg ≠ s.outReg ∧
    t.outValid ≠ s.outValid ∧ t.stepOut ≠ s.stepOut :=
  ⟨.runStep 0 0x35, inWindow 7 0, _, (lastEdge_inWindow 0).2, Option.some_ne_none _, by decide, Option.some_ne_none _⟩
theorem witness_fieldWriters_settles : ∃ i s t j u, exec i s = .next t ∧ t.clrCnt ≠ s.clrCnt ∧
    exec j s = .next u ∧ u.rstCnt ≠ s.rstCnt :=
  ⟨.runReset 0, { inPhase .running with clrCnt := 1 }, _, .rstEdge 0 0, _, rfl, by decide, rfl, by decide⟩
theorem witness_outputRegister : ∃ w s t, edge w s = .next t ∧ t.outReg ≠ s.outReg ∧ t.outValid = true :=
  ⟨0x30035, inWindow 7 0, _, (lastEdge_inWindow 0).1.trans (lastEdge_inWindow 0).2, Option.some_ne_none _, rfl⟩
theorem witness_outputValid : ∃ i s t, Instr.isEdge i = true ∧ exec i s = .next t ∧ t.outValid = true :=
  ⟨.runStep 0 0x35, inWindow 7 0, _, rfl, (lastEdge_inWindow 0).2, rfl⟩
theorem witness_observation :
    ({ State.reset with outValid := true, outReg := some 0x6F } : State).outReg = some 0x6F ∧
    State.reset.outValid = false ∧ ({ State.reset with outValid := true } : State).outReg = none ∧
    ({ State.reset with outValid := true } : State).fault = none := by decide
theorem witness_phaseTransitions : ∃ w s t, edge w s = .next t ∧ t.fault = none ∧ t.phase ≠ s.phase :=
  ⟨0x3BB00, inPhase .awaitSeed, _, rfl, rfl, by decide⟩
theorem witness_dataByte : (inPhase .awaitSeed).phase ≠ .running ∧ rOf 0x3BB00 = rOf 0x3BBFF ∧
    eOf 0x3BB00 = eOf 0x3BBFF ∧ cOf 0x3BB00 = cOf 0x3BBFF ∧ dOf 0x3BB00 ≠ dOf 0x3BBFF := by decide
theorem witness_controlByte : (inWindow 3 0).phase = .running ∧ Quiet 0x30035 ∧ Quiet 0x3FE35 ∧
    dOf 0x30035 = dOf 0x3FE35 := by unfold Quiet Live; decide
theorem witness_boot : ∃ s : State, s.fault = none ∧ 3 ≤ [(0x10000 : HostWord), 0x1FF35, 0x10000].length ∧
    (∀ w ∈ [(0x10000 : HostWord), 0x1FF35, 0x10000], ResetEdge w) ∧ NormalEdge 0x30000 ∧
    s.schedule = [(0x10000 : HostWord), 0x1FF35, 0x10000] ++ 0x30000 :: [0x3BB00] :=
  ⟨{ State.reset with schedule := [0x10000, 0x1FF35, 0x10000, 0x30000, 0x3BB00] }, rfl, by simp,
    by simp [ResetEdge, eOf, rOf], by unfold NormalEdge Live; decide, by simp⟩
theorem witness_shortReset : ∃ s : State, s.fault = none ∧ s.phase = .idleReset ∧ s.rstCnt = 0 ∧
    [(0x10000 : HostWord), 0x10000].length < 3 ∧ (∀ w ∈ [(0x10000 : HostWord), 0x10000], ResetEdge w) ∧
    Live 0x3BB00 ∧ s.schedule = [(0x10000 : HostWord), 0x10000] ++ 0x3BB00 :: [] :=
  ⟨{ State.reset with schedule := [0x10000, 0x10000, 0x3BB00] }, rfl, rfl, rfl, by simp,
    by simp [ResetEdge, eOf, rOf], by unfold Live; decide, by simp⟩
/-- A reset pulse of one edge inside a window. -/
theorem witness_shortReset_pulse : ∃ s : State, s.fault = none ∧ s.phase = .running ∧
    [(0x10000 : HostWord)] ≠ [] ∧ s.rstCnt = 0 ∧ [(0x10000 : HostWord)].length < 3 ∧
    (∀ w ∈ [(0x10000 : HostWord)], ResetEdge w) ∧ Live 0x30000 ∧ s.schedule = [(0x10000 : HostWord)] ++ 0x30000 :: [] :=
  ⟨{ inWindow 3 2 with schedule := [0x10000, 0x30000] }, rfl, rfl, List.cons_ne_nil _ _, rfl, by simp,
    by simp [ResetEdge, eOf, rOf], by unfold Live; decide, by simp⟩
/-- A release at power-on, with no reset edge at all. -/
theorem witness_shortReset_powerOn : ∃ s : State, s.fault = none ∧ s.phase = .idleReset ∧ s.rstCnt = 0 ∧
    ([] : List HostWord).length < 3 ∧ Live 0x30000 ∧ s.schedule = [] ++ 0x30000 :: [] :=
  ⟨{ State.reset with schedule := [0x30000] }, rfl, rfl, rfl, by simp, by unfold Live; decide, by simp⟩
theorem witness_seedSettle : ∃ (s : State) (ws : List HostWord), s.fault = none ∧ s.phase = .seedLoading ∧
    s.seedCnt = 0 ∧ ws.length = Config.SEED_SETTLE ∧ (∀ w ∈ ws, Quiet w) ∧ s.schedule = ws ++ [] :=
  ⟨{ inPhase .seedLoading with schedule := List.replicate Config.SEED_SETTLE 0x3FE00 },
    List.replicate Config.SEED_SETTLE 0x3FE00, rfl, rfl, rfl, by simp,
    fun w h => by rw [List.eq_of_mem_replicate h]; unfold Quiet Live; decide, (List.append_nil _).symm⟩
theorem witness_seedSettle_before : ([] : List HostWord).length < Config.SEED_SETTLE := by simp [Config.SEED_SETTLE]
theorem witness_clearSettle : ∃ (s : State) (ws : List HostWord), s.fault = none ∧ s.phase = .clearing ∧
    s.clrCnt = 0 ∧ ws.length = Config.CLEAR_SETTLE ∧ (∀ w ∈ ws, NormalEdge w) ∧ s.schedule = ws ++ [] :=
  ⟨{ inPhase .clearing with schedule := List.replicate Config.CLEAR_SETTLE 0x300AA },
    List.replicate Config.CLEAR_SETTLE 0x300AA, rfl, rfl, rfl, by simp,
    fun w h => by rw [List.eq_of_mem_replicate h]; unfold NormalEdge Live; decide, (List.append_nil _).symm⟩
theorem witness_clearSettle_before : ([] : List HostWord).length < Config.CLEAR_SETTLE := by
  simp [Config.CLEAR_SETTLE]
theorem witness_window : ∀ n ∈ [1, 7, 8],
    ∃ (s : State) (ws : List HostWord), s.fault = none ∧ s.phase = .running ∧ s.winCnt = 0 ∧
      s.gen = .loaded 0xBB 2 ∧ ws ≠ [] ∧ ws.length = n ∧ (∀ w ∈ ws, Quiet w ∧ dOf w = 0x35) ∧
      s.schedule = ws ++ [] := by
  intro n hn
  refine ⟨{ inWindow 0 2 with schedule := List.replicate n 0x34235 }, List.replicate n 0x34235, rfl, rfl, rfl, rfl,
    ?_, by simp, fun w h => ?_, (List.append_nil _).symm⟩
  · intro h
    rw [List.replicate_eq_nil_iff] at h
    subst h
    exact absurd hn (by decide)
  · rw [List.eq_of_mem_replicate h]
    unfold Quiet Live
    decide
theorem witness_message : (Run.mk (inWindow 0 3) []).state.fault = none ∧
    (Run.mk (inWindow 0 3) []).state.phase = .running ∧ (Run.mk (inWindow 0 3) []).state.winCnt = 0 ∧
    (Run.mk (inWindow 0 3) []).state.gen = .loaded 0xBB 3 := by decide
theorem witness_roundTrip : (0x01 : Byte) ≤ 0x01 ∧ (0x01 : Byte) ≤ 0xFE ∧ (0xFE : Byte) ≤ 0xFE ∧
    (Run.mk (inPhase .awaitSeed) []).state.fault = none ∧
    (Run.mk (inPhase .awaitSeed) []).state.phase = .awaitSeed := by decide
theorem witness_scheduleRuns : State.reset.schedule = [] := rfl

end Sys2Proof.Tests
end

/-! # The pending-output register (10_state.md R26)

Row 15 alone writes `out_reg`, the decoder selects row 15 only at the 8th edge of a stable window, and what
row 15 leaves with `out_reg` changed is its output case. -/

namespace Sys2Proof.Machine

theorem dataOut_of_outValid {s : State} {b : Byte} (hv : s.outValid = true) (hb : s.outReg = some b) :
    s.dataOut = b := by simp [State.dataOut, hv, hb]

@[simp] theorem loadSettle_outReg (n : Nat) (s : State) : (loadSettle n s).outReg = s.outReg := by
  rcases loadSettle_cases n s with ⟨_, h⟩ | ⟨_, h⟩ <;> rw [h]

@[simp] theorem clearSettle_outReg (n : Nat) (s : State) : (clearSettle n s).outReg = s.outReg := by
  rcases clearSettle_cases n s with ⟨_, h⟩ | ⟨_, h⟩ <;> rw [h]

/-- A step of the generator writes `gen` and `stepOut` only (R73; log 14). -/
theorem stepGen_eq_some {s t : State} {b : Byte} :
    stepGen s = some (b, t) ↔
      ∃ sd k, s.gen = .loaded sd k ∧ b = Config.KS sd k ∧
        t = { s with gen := .loaded sd (k + 1), stepOut := some b } := by
  constructor
  · intro h
    cases hg : s.gen with
    | undef => rw [stepGen_eq_none.mpr (.inl hg)] at h; cases h
    | cleared => rw [stepGen_eq_none.mpr (.inr hg)] at h; cases h
    | loaded sd k => rw [stepGen_of_loaded hg] at h; cases h; exact ⟨sd, k, rfl, rfl, rfl⟩
  · rintro ⟨sd, k, hg, rfl, rfl⟩
    exact stepGen_of_loaded hg

/-- Row 15 is `RUN_STEP`, whatever its operands. -/
theorem rowNo_eq_15_iff {i : Instr} : i.rowNo = some 15 ↔ ∃ c d, i = .runStep c d := by
  cases i <;> simp [Instr.rowNo]

/-- Everything `RUN_STEP` can do (R97): it produces an output byte, or it reads an unwritten field (R34; log 17). -/
theorem exec_runStep_cases (c d : Byte) (s : State) :
    (∃ sd k b, s.gen = .loaded sd k ∧ s.winData = some b ∧
      exec (.runStep c d) s = .next { beginEdge s with
        gen := .loaded sd (k + 1), stepOut := some (Config.KS sd k),
        outReg := some (combine b (Config.KS sd k)), outValid := true, winCnt := 0 }) ∨
    ((s.gen = .undef ∨ s.gen = .cleared) ∧
      exec (.runStep c d) s = .next (raise (.undefRead .gen) (beginEdge s))) ∨
    ((∃ sd k, s.gen = .loaded sd k) ∧ s.winData = none ∧
      exec (.runStep c d) s = .next (raise (.undefRead .winData) (beginEdge s))) := by
  cases hg : stepGen (beginEdge s) with
  | none => exact .inr (.inl ⟨by simpa using stepGen_eq_none.mp hg, by simp [exec, execRunStep, hg]⟩)
  | some p =>
    obtain ⟨sd, k, hl, hb, ht⟩ := stepGen_eq_some.mp hg
    cases hw : s.winData with
    | none => exact .inr (.inr ⟨⟨sd, k, hl⟩, rfl, by simp [exec, execRunStep, hg, hw]⟩)
    | some b => exact .inl ⟨sd, k, b, hl, rfl, by simp [exec, execRunStep, hg, hw, hb, ht]⟩

/-- The frame of `out_reg`: every instruction but `RUN_STEP` leaves it as it was (R26). -/
theorem exec_keeps_outReg {i : Instr} {s t : State} (hi : i.rowNo ≠ some 15) (h : exec i s = .next t) :
    t.outReg = s.outReg := by
  cases i with
  | runStep c d => exact absurd rfl hi
  | loadTick c d => cases h; simp
  | clearTick d => cases h; simp
  | runUnstable c d => cases hw : s.winData <;> simp only [exec, execRunUnstable, hw] at h <;> cases h <;> rfl
  | genStep =>
    cases hg : stepGen s with
    | none => simp only [exec, execGenStep, hg] at h; cases h; rfl
    | some p =>
      obtain ⟨sd, k, -, -, ht⟩ := stepGen_eq_some.mp hg
      simp only [exec, execGenStep, hg] at h; cases h; rw [ht]
  | _ => cases h; rfl

/-- A `RUN_STEP` that changes `out_reg` has produced an output byte (R31, R97). -/
theorem outValid_of_runStep_outReg_ne {c d : Byte} {s t : State} (h : exec (.runStep c d) s = .next t)
    (hne : t.outReg ≠ s.outReg) : t.outValid = true := by
  rcases exec_runStep_cases c d s with ⟨sd, k, b, -, -, he⟩ | ⟨-, he⟩ | ⟨-, -, he⟩ <;>
    rw [he] at h <;> cases h
  · rfl
  · exact absurd rfl hne
  · exact absurd rfl hne

/-- Row 15 is selected exactly at the 8th edge of a window whose data byte is stable and whose control byte has no
effect (R56). -/
theorem decode_rowNo_eq_15_iff {k : DecodeCtx} {w : HostWord} :
    (decode k w).rowNo = some 15 ↔
      k.phase = .running ∧ k.winCnt = 7 ∧ Quiet w ∧ k.winData = some (dOf w) := by
  constructor
  · intro h
    rcases edge_kind w with he | ⟨he, hr⟩ | ⟨he, hr⟩
    · simp [decode_enaLow he, Instr.rowNo] at h
    · simp [decode_rstEdge he hr, Instr.rowNo] at h
    · cases hp : k.phase with
      | idleReset => rw [decode_idleReset he hr hp] at h; split_ifs at h <;> cases h
      | awaitSeed => rw [decode_awaitSeed he hr hp] at h; split_ifs at h <;> cases h
      | seedLoading => rw [decode_seedLoading he hr hp] at h; split_ifs at h <;> cases h
      | clearing => rw [decode_clearing he hr hp] at h; split_ifs at h <;> cases h
      | running =>
        rw [decode_running he hr hp] at h
        split_ifs at h with hc h0 hd h7
        · cases h
        · cases h
        · cases h
        · exact ⟨rfl, h7, ⟨⟨he, hr⟩, hc⟩, not_not.mp hd⟩
        · cases h
  · rintro ⟨hp, h7, ⟨⟨he, hr⟩, hc⟩, hd⟩
    rw [decode_running he hr hp, if_neg hc, if_neg (by simp [h7]), if_neg (by simp [hd]), if_pos h7]
    rfl

/-- An edge that changes anything runs its row: no misuse was recorded before it (R75). -/
theorem exec_of_edge_of_ne {w : HostWord} {s t : State} (h : edge w s = .next t) (hne : t ≠ s) :
    exec (decode s.decodeCtx w) s = .next t := by
  cases hf : s.fault with
  | none => rwa [edge_of_good w hf] at h
  | some m =>
    rw [edge_of_fault w hf] at h
    cases h
    exact absurd rfl hne

/-- Settles O40: the row that changes `out_reg` is row 15, and the decoder selects it at the 8th edge only. -/
theorem outputRegisterIsWrittenAtTheEighthEdgeOnly :
    Obligations.OutputRegisterIsWrittenAtTheEighthEdgeOnly := by
  refine ⟨fun w s t h hne => ?_, fun s b => dataOut_of_outValid⟩
  have hx := exec_of_edge_of_ne h fun hts => hne (congrArg State.outReg hts)
  have h15 : (decode s.decodeCtx w).rowNo = some 15 := by
    by_contra hn
    exact hne (exec_keeps_outReg hn hx)
  obtain ⟨hp, h7, hq, hd⟩ := decode_rowNo_eq_15_iff.mp h15
  obtain ⟨c, d, hi⟩ := rowNo_eq_15_iff.mp h15
  rw [hi] at hx
  exact ⟨hp, h7, hq, hd, outValid_of_runStep_outReg_ne hx hne⟩

end Sys2Proof.Machine

/-! # Operands and operations of the encoding (30_encoding.md R53, R55, R57)

What the decoder reads of a control byte is whether it is `NORMAL` and whether it is `RESET`: its class. -/

namespace Sys2Proof.Machine

/-- The class `NORMAL` is one value (R55). -/
@[simp] theorem ctrlClass_eq_normal_iff {c : Byte} : ctrlClass c = .normal ↔ c = 0x00 := by
  unfold ctrlClass
  split_ifs <;> simp_all

/-- The class `RESET` is one value (R55). -/
@[simp] theorem ctrlClass_eq_reset_iff {c : Byte} : ctrlClass c = .reset ↔ c = 0xFF := by
  unfold ctrlClass
  split_ifs <;> simp_all

/-- The third class is the usable seeds (R53, R55). -/
@[simp] theorem ctrlClass_eq_other_iff {c : Byte} : ctrlClass c = .other ↔ usableSeed c = true := by
  unfold ctrlClass usableSeed
  split_ifs <;> simp_all

/-- On a live edge the row is decided by the phase with its counters, the class of the control byte and the data
byte (R55, R56). -/
theorem decode_rowNo_congr (k : DecodeCtx) {w w' : HostWord} (hw : Live w) (hw' : Live w')
    (hc : ctrlClass (cOf w) = ctrlClass (cOf w')) (hd : dOf w = dOf w') :
    (decode k w).rowNo = (decode k w').rowNo := by
  obtain ⟨he, hr⟩ := hw
  obtain ⟨he', hr'⟩ := hw'
  have hn : cOf w = 0x00 ↔ cOf w' = 0x00 := by
    rw [← ctrlClass_eq_normal_iff, hc, ctrlClass_eq_normal_iff]
  have hf : cOf w = 0xFF ↔ cOf w' = 0xFF := by
    rw [← ctrlClass_eq_reset_iff, hc, ctrlClass_eq_reset_iff]
  cases hp : k.phase with
  | idleReset =>
    rw [decode_idleReset he hr hp, decode_idleReset he' hr' hp]; simp only [hn]; split_ifs <;> rfl
  | awaitSeed =>
    rw [decode_awaitSeed he hr hp, decode_awaitSeed he' hr' hp]; simp only [hn, hf]; split_ifs <;> rfl
  | seedLoading =>
    rw [decode_seedLoading he hr hp, decode_seedLoading he' hr' hp]; simp only [hf]; split_ifs <;> rfl
  | running =>
    rw [decode_running he hr hp, decode_running he' hr' hp]; simp only [hf, hd]; split_ifs <;> rfl
  | clearing =>
    rw [decode_clearing he hr hp, decode_clearing he' hr' hp]; simp only [hn]; split_ifs <;> rfl

/-- Settles O9: the classes by value, and the decoder tests of a control byte no more than its class. -/
theorem controlByteClassesAreDecidedByValue : Obligations.ControlByteClassesAreDecidedByValue :=
  ⟨fun c => ⟨ctrlClass_eq_normal_iff, ctrlClass_eq_reset_iff, ctrlClass_eq_other_iff.trans (usableSeed_iff c)⟩,
    fun k _ _ => decode_rowNo_congr k⟩

/-- The usable seeds are the bytes but `NORMAL` and `RESET` (R53). -/
theorem usableSeed_iff_ne {c : Byte} : usableSeed c = true ↔ c ≠ 0x00 ∧ c ≠ 0xFF := by
  simp [usableSeed]

/-- The control byte is the second byte of the host word, unsigned and unextended (R52, R53). -/
theorem cOf_toNat (w : HostWord) : (cOf w).toNat = w.toNat / 256 % 256 := by
  simp [cOf, Nat.shiftRight_eq_div_pow]

/-- Row 8 is selected exactly at a live edge of `AWAIT_SEED` with a usable seed, and its operands are the two bytes
of the host word (R53, R56). -/
theorem decode_eq_seed_iff {k : DecodeCtx} {w : HostWord} {c d : Byte} :
    decode k w = .seed c d ↔
      k.phase = .awaitSeed ∧ Live w ∧ usableSeed (cOf w) = true ∧ c = cOf w ∧ d = dOf w := by
  constructor
  · intro h
    rcases edge_kind w with he | ⟨he, hr⟩ | ⟨he, hr⟩
    · rw [decode_enaLow he] at h; cases h
    · rw [decode_rstEdge he hr] at h; cases h
    · cases hp : k.phase with
      | idleReset => rw [decode_idleReset he hr hp] at h; split_ifs at h
      | seedLoading => rw [decode_seedLoading he hr hp] at h; split_ifs at h
      | running => rw [decode_running he hr hp] at h; split_ifs at h
      | clearing => rw [decode_clearing he hr hp] at h; split_ifs at h
      | awaitSeed =>
        rw [decode_awaitSeed he hr hp] at h
        split_ifs at h with hn hf
        cases h
        exact ⟨rfl, ⟨he, hr⟩, usableSeed_iff_ne.mpr ⟨hn, hf⟩, rfl, rfl⟩
  · rintro ⟨hp, ⟨he, hr⟩, hu, rfl, rfl⟩
    obtain ⟨hn, hf⟩ := usableSeed_iff_ne.mp hu
    rw [decode_awaitSeed he hr hp, if_neg hn, if_neg hf]

/-- Settles O10: row 8 takes the whole control byte as its seed; rows 6 and 7 take the two other bytes and keep the
generator. -/
theorem seedOperandIsTheWholeControlByte : Obligations.SeedOperandIsTheWholeControlByte := by
  refine ⟨cOf_toNat, fun k w c d h => ?_, fun k w hp hw => ⟨fun hu => ?_, fun hn => ?_, fun hf => ?_⟩,
    fun d s => ⟨⟨_, rfl, rfl⟩, ⟨_, rfl, rfl⟩⟩⟩
  · obtain ⟨-, -, -, hc, -⟩ := decode_eq_seed_iff.mp h
    exact hc
  · exact decode_eq_seed_iff.mpr ⟨hp, hw, (usableSeed_iff _).mpr hu, rfl, rfl⟩
  · rw [decode_awaitSeed hw.1 hw.2 hp]
    exact if_pos hn
  · have hc : cOf w = 0xFF := hf
    rw [decode_awaitSeed hw.1 hw.2 hp, hc]
    rfl

/-- No host word selects an instruction that stands for no row (R57). -/
theorem decode_ne_of_not_isEdge {i : Instr} (hi : i.isEdge = false) (k : DecodeCtx) (w : HostWord) :
    decode k w ≠ i := by
  rintro rfl
  rw [decode_isEdge] at hi
  cases hi

/-- `GEN_STEP` on a load (R73). -/
theorem exec_genStep_of_loaded {s : State} {sd : Byte} {k : Nat} (hg : s.gen = .loaded sd k) :
    exec .genStep s =
      .next { s with gen := .loaded sd (k + 1), stepOut := some (Config.KS sd k) } := by
  simp only [exec, execGenStep, stepGen_of_loaded hg]

/-- `RUN_STEP` on a load with a byte to combine: its output case (R97). -/
theorem exec_runStep_of_loaded (c d : Byte) {s : State} {sd b : Byte} {k : Nat} (hg : s.gen = .loaded sd k)
    (hw : s.winData = some b) :
    exec (.runStep c d) s = .next { beginEdge s with
      gen := .loaded sd (k + 1), stepOut := some (Config.KS sd k),
      outReg := some (combine b (Config.KS sd k)), outValid := true, winCnt := 0 } := by
  rcases exec_runStep_cases c d s with ⟨sd', k', b', hg', hw', h⟩ | ⟨hn, -⟩ | ⟨-, hn, -⟩
  · cases hg.symm.trans hg'
    cases hw.symm.trans hw'
    exact h
  · simp [hg] at hn
  · simp [hw] at hn

/-- Settles O15: the decoder selects rows only, and rows 8, 11 and 15 leave the generator as `load`, `clear` and
`step` do. -/
theorem internalOperationsAreInvokedByTheirRowsOnly : Obligations.InternalOperationsAreInvokedByTheirRowsOnly := by
  refine ⟨fun k w => ⟨decode_ne_of_not_isEdge rfl k w, decode_ne_of_not_isEdge rfl k w,
      fun _ => decode_ne_of_not_isEdge rfl k w⟩, fun _ => rfl, rfl, rfl,
    fun c d s => ⟨_, _, rfl, rfl, rfl, rfl⟩, fun d s => ⟨_, _, rfl, rfl, rfl, rfl⟩,
    fun c d b sd k s hg hw => ?_⟩
  exact ⟨_, _, Config.KS sd k, .loaded sd (k + 1), by rw [hg, genNext_loaded], exec_genStep_of_loaded hg,
    exec_runStep_of_loaded c d hg hw, rfl, rfl, rfl, rfl⟩

end Sys2Proof.Machine

/-! # The keystream generator (40_keystream_generator.md R65 to R67, R71, R73)

Of the edges, rows 2, 8, 11 and 15 alone write `gen`, and each leaves there what its generator operation leaves. Row
15 alone leaves `out_valid` set, so an edge that produces an output has stepped a load. -/

namespace Sys2Proof.Machine

/-- `RUN_UNSTABLE` records a misuse and does nothing else, whether or not `win_data` was written (R95; log 17). -/
theorem exec_runUnstable_eq_raise (c d : Byte) (s : State) :
    ∃ m, exec (.runUnstable c d) s = .next (raise m (beginEdge s)) := by
  cases hw : s.winData with
  | none => exact ⟨.undefRead .winData, by simp only [exec, execRunUnstable, hw]⟩
  | some b => exact ⟨.dataUnstable (packWord 1 1 c d) s.winCnt b, by simp only [exec, execRunUnstable, hw]⟩

/-- Everything an edge can do to the generator: keep it, or reset, load, clear or step it, each at one row (R27). -/
theorem exec_gen_cases {i : Instr} {s t : State} (hi : i.isEdge = true) (h : exec i s = .next t) :
    t.gen = s.gen ∨
    ((∃ c d, i = .rstEdge c d) ∧ t.gen = .undef) ∨
    (∃ c d, i = .seed c d ∧ t.gen = .loaded c 0) ∨
    ((∃ d, i = .runReset d) ∧ t.gen = .cleared) ∨
    ((∃ c d, i = .runStep c d) ∧ ∃ sd k, s.gen = .loaded sd k ∧ t.gen = .loaded sd (k + 1)) := by
  cases i with
  | genLoad sd => cases hi
  | genClear => cases hi
  | genStep => cases hi
  | rstEdge c d => cases h; exact .inr (.inl ⟨⟨c, d, rfl⟩, rfl⟩)
  | seed c d => cases h; exact .inr (.inr (.inl ⟨c, d, rfl, rfl⟩))
  | runReset d => cases h; exact .inr (.inr (.inr (.inl ⟨⟨d, rfl⟩, rfl⟩)))
  | runStep c d =>
    rcases exec_runStep_cases c d s with ⟨sd, k, b, hg, -, he⟩ | ⟨-, he⟩ | ⟨-, -, he⟩ <;> rw [he] at h <;> cases h
    · exact .inr (.inr (.inr (.inr ⟨⟨c, d, rfl⟩, sd, k, hg, rfl⟩)))
    · exact .inl rfl
    · exact .inl rfl
  | runUnstable c d =>
    obtain ⟨m, he⟩ := exec_runUnstable_eq_raise c d s
    rw [he] at h; cases h; exact .inl rfl
  | loadTick c d => cases h; simp
  | clearTick d => cases h; simp
  | _ => cases h; exact .inl rfl

/-- Settles O1: `load` writes `gen` alone, and row 8 is the one case of `exec_gen_cases` that starts a load. -/
theorem genLoadSetsIndexZeroFromEveryState : Obligations.GenLoadSetsIndexZeroFromEveryState := by
  refine ⟨fun sd s => ⟨_, rfl, rfl⟩, fun k w c d h => ?_, fun c d s => ⟨_, rfl, rfl⟩, fun i s t hi hne h => ?_⟩
  · obtain ⟨-, -, hu, rfl, -⟩ := decode_eq_seed_iff.mp h
    exact (usableSeed_iff _).mp hu
  · rcases exec_gen_cases hi h with hg | ⟨-, hg⟩ | ⟨c, d, hs, -⟩ | ⟨-, hg⟩ | ⟨-, hg⟩
    · exact .inl hg
    · exact .inr (.inl hg)
    · exact absurd hs (hne c d)
    · exact .inr (.inr (.inl hg))
    · exact .inr (.inr (.inr hg))

/-- `GEN_STEP` without a load is `M8`, and no byte is returned (R73). -/
theorem exec_genStep_of_not_loaded {s : State} (hg : s.gen = .undef ∨ s.gen = .cleared) :
    exec .genStep s = .next (raise (.undefRead .gen) s) := by
  simp only [exec, execGenStep, stepGen_eq_none.mpr hg]

/-- The edge that moves a load on by one is `RUN_STEP`: a load that is kept or started anew has another count (R73). -/
theorem eq_runStep_of_load_moves_on {i : Instr} {s t : State} {sd : Byte} {k : Nat} (hi : i.isEdge = true)
    (h : exec i s = .next t) (hs : s.gen = .loaded sd k) (ht : t.gen = .loaded sd (k + 1)) :
    ∃ c d, i = .runStep c d := by
  rcases exec_gen_cases hi h with hg | ⟨-, hg⟩ | ⟨c, d, -, hg⟩ | ⟨-, hg⟩ | ⟨hr, -⟩
  · simp [hs, ht] at hg
  · simp [ht] at hg
  · simp [ht] at hg
  · simp [ht] at hg
  · exact hr

/-- Settles O3: the two cases of `step()`, with and without a load, and row 15 as the one edge that takes the first. -/
theorem genStepReturnsTheNextKeystreamByte : Obligations.GenStepReturnsTheNextKeystreamByte := by
  refine ⟨genNext_loaded, fun sd k s hg => ⟨_, exec_genStep_of_loaded hg, rfl⟩, fun s hg hf => ⟨?_, _,
    exec_genStep_of_not_loaded hg, ?_⟩, fun i s t sd k => eq_runStep_of_load_moves_on, fun k w c d h => ?_⟩
  · rcases hg with hg | hg <;> rw [hg] <;> rfl
  · simp [State.record, hf]
  · obtain ⟨-, h7, -, -⟩ := decode_rowNo_eq_15_iff.mp (rowNo_eq_15_iff.mpr ⟨c, d, h⟩)
    exact h7

/-- `n` steps from the index `k` of a load return `KS(s, k) .. KS(s, k + n - 1)` (R65). -/
theorem genRun_loaded (sd : Byte) (n k : Nat) :
    genRun n (.loaded sd k) = some ((List.range' k n).map (Config.KS sd), .loaded sd (k + n)) := by
  induction n generalizing k with
  | zero => rfl
  | succ n ih => simp [genRun, ih, List.range'_succ, Nat.add_assoc, Nat.add_comm 1 n]

/-- `GEN_STEP` leaves the generator as `step()` does (R73). -/
theorem exec_genStep_gen {s : State} {b : Byte} {g : GenState} (h : genNext s.gen = some (b, g)) :
    ∃ t, exec .genStep s = .next t ∧ t.gen = g := by
  obtain ⟨sd, k, hg, -, rfl⟩ := genNext_eq_some.mp h
  exact ⟨_, exec_genStep_of_loaded hg, rfl⟩

/-- Settles O5: `load` leaves the index 0 from every state, and the steps after it are those of `genRun_loaded`. -/
theorem keystreamRestartsAtEveryLoad : Obligations.KeystreamRestartsAtEveryLoad := by
  refine ⟨fun sd s n => ⟨_, rfl, ?_⟩, fun s b g => exec_genStep_gen⟩
  rw [loadGen_gen, genRun_loaded, List.range_eq_range', Nat.zero_add]

/-- Every edge but `RUN_STEP` leaves `out_valid` at the 0 that it began with (R31, R74). -/
theorem outValid_eq_false_of_rowNo_ne {i : Instr} {s t : State} (hi : i.isEdge = true) (h15 : i.rowNo ≠ some 15)
    (h : exec i s = .next t) : t.outValid = false := by
  cases i with
  | genLoad sd => cases hi
  | genClear => cases hi
  | genStep => cases hi
  | runStep c d => exact absurd rfl h15
  | runUnstable c d =>
    obtain ⟨m, he⟩ := exec_runUnstable_eq_raise c d s
    rw [he] at h; cases h; rfl
  | loadTick c d => cases h; simp
  | clearTick d => cases h; simp
  | _ => cases h; rfl

/-- An edge that produces an output steps a load `LOADED(s, k)` and combines `win_data` with `KS(s, k)`; nothing of the
host word enters it (R66, R97). -/
theorem edge_of_outValid {w : HostWord} {s t : State} (hf : s.fault = none) (h : edge w s = .next t)
    (hv : t.outValid = true) :
    ∃ sd k b, s.gen = .loaded sd k ∧ s.winData = some b ∧ t.gen = .loaded sd (k + 1) ∧
      t.outReg = some (b ^^^ Config.KS sd k) := by
  rw [edge_of_good w hf] at h
  have h15 : (decode s.decodeCtx w).rowNo = some 15 := by
    by_contra hn
    rw [outValid_eq_false_of_rowNo_ne (decode_isEdge _ _) hn h] at hv
    cases hv
  obtain ⟨c, d, hi⟩ := rowNo_eq_15_iff.mp h15
  rw [hi] at h
  rcases exec_runStep_cases c d s with ⟨sd, k, b, hg, hw, he⟩ | ⟨-, he⟩ | ⟨-, -, he⟩ <;> rw [he] at h <;> cases h
  · exact ⟨sd, k, b, hg, hw, rfl, rfl⟩
  · cases hv
  · cases hv

/-- Settles O7: each of the two edges is described by `edge_of_outValid`, on one and the same load. -/
theorem keystreamDependsOnSeedAndIndexOnly : Obligations.KeystreamDependsOnSeedAndIndexOnly := by
  intro s s' t t' w w' hgen hf hf' h h' hv hv'
  obtain ⟨sd, k, b, hg, hb, ht, ho⟩ := edge_of_outValid hf h hv
  obtain ⟨sd', k', b', hg', hb', ht', ho'⟩ := edge_of_outValid hf' h' hv'
  rw [hg, hg'] at hgen
  cases hgen
  exact ⟨ht.trans ht'.symm, sd, k, b, b', hg, hb, hb', ho, ho'⟩

end Sys2Proof.Machine

/-! # The seed wait and the seed-accept edge (41_protocol_controller.md R81, R83)

A `NORMAL` edge of `AWAIT_SEED` does what every edge does first and nothing more, and doing that again changes nothing
further: any number of them is one. A usable control byte there is loaded by the edge it is sampled at. -/

namespace Sys2Proof.Machine

/-- The edge of row 6 (R81). -/
theorem edge_awaitSeed_of_normalEdge {w : HostWord} {s : State} (hf : s.fault = none) (hp : s.phase = .awaitSeed)
    (hw : NormalEdge w) : edge w s = .next (beginEdge s) := by
  obtain ⟨⟨he, hr⟩, hc⟩ := hw
  rw [edge_of_good w hf, decode_awaitSeed he hr hp, if_pos hc]
  rfl

/-- `NORMAL` edges of `AWAIT_SEED` after a first one change nothing (R81). -/
theorem edges_beginEdge_of_normalEdges {ws : List HostWord} {s : State} (hf : s.fault = none)
    (hp : s.phase = .awaitSeed) (hws : ∀ w ∈ ws, NormalEdge w) : edges ws (beginEdge s) = .next (beginEdge s) := by
  induction ws with
  | nil => rfl
  | cons w ws ih =>
    obtain ⟨hw, hws⟩ := List.forall_mem_cons.mp hws
    have hstay : edge w (beginEdge s) = .next (beginEdge s) := edge_awaitSeed_of_normalEdge hf hp hw
    rw [edges_cons_of_next ws hstay]
    exact ih hws

/-- One or more `NORMAL` edges of `AWAIT_SEED` do together what the first one does (R81). -/
theorem edges_awaitSeed_of_normalEdges {w : HostWord} {ws : List HostWord} {s : State} (hf : s.fault = none)
    (hp : s.phase = .awaitSeed) (hws : ∀ x ∈ w :: ws, NormalEdge x) :
    edges (w :: ws) s = .next (beginEdge s) := by
  obtain ⟨hw, hws⟩ := List.forall_mem_cons.mp hws
  rw [edges_cons_of_next ws (edge_awaitSeed_of_normalEdge hf hp hw)]
  exact edges_beginEdge_of_normalEdges hf hp hws

/-- Settles O27: without an edge nothing changes, and with one or more the state left is that of the first. -/
theorem awaitNormalStaysForAnyNumberOfEdges : Obligations.AwaitNormalStaysForAnyNumberOfEdges := by
  refine ⟨fun d s => ⟨_, rfl, record_beginEdge s⟩, fun ws s hf hp hws => ?_⟩
  cases ws with
  | nil => exact ⟨s, rfl, hp, rfl, fun hne => absurd rfl hne⟩
  | cons w ws =>
    exact ⟨_, edges_awaitSeed_of_normalEdges hf hp hws, hp, rfl, fun _ => record_beginEdge s⟩

/-- The seed-accept edge is row 8 on the control byte sampled at it (R83). -/
theorem edge_awaitSeed_of_usableSeed {w : HostWord} {s : State} (hf : s.fault = none) (hp : s.phase = .awaitSeed)
    (hw : Live w) (hu : usableSeed (cOf w) = true) : edge w s = exec (.seed (cOf w) (dOf w)) s := by
  rw [edge_of_good w hf, decode_eq_seed_iff.mpr ⟨hp, hw, hu, rfl, rfl⟩]

/-- What row 8 leaves of the record, from every state and whatever the data byte (R83). -/
theorem exec_seed_record (c d : Byte) (s : State) :
    ∃ t, exec (.seed c d) s = .next t ∧ t.record = { s.record with
      gen := .loaded c 0, phase := .seedLoading, seedCnt := 0, outValid := false } := ⟨_, rfl, rfl⟩

/-- Settles O28: row 8 loads its operand, the seed-accept edge gives it the control byte of that edge, and the settle
edges after it keep the generator. -/
theorem seedAcceptLoadsTheSampledSeed : Obligations.SeedAcceptLoadsTheSampledSeed := by
  refine ⟨exec_seed_record, fun w s hf hp hw h1 h2 => ?_, fun c d s => ⟨_, rfl, loadSettle_gen _ _⟩⟩
  rw [edge_awaitSeed_of_usableSeed hf hp hw ((usableSeed_iff _).mpr ⟨h1, h2⟩)]
  exact exec_seed_record _ _ s

end Sys2Proof.Machine

/-! # The byte window and the combiner (42_byte_combiner.md R96, R98)

Between its first and its last edge a stable window selects row 14, which writes the count and what every edge writes.
The combiner has one lane per bit, and its laws are those of exclusive-or on bytes. -/

namespace Sys2Proof.Machine

/-- Row 14 is selected at the 2nd to the 7th edge of a window whose data byte is stable and whose control byte has no
effect (R56). -/
theorem decode_eq_runTick {k : DecodeCtx} {w : HostWord} (hp : k.phase = .running) (hw : Quiet w)
    (h1 : 1 ≤ k.winCnt.val) (h6 : k.winCnt.val ≤ 6) (hd : k.winData = some (dOf w)) :
    decode k w = .runTick (cOf w) (dOf w) := by
  obtain ⟨⟨he, hr⟩, hc⟩ := hw
  have h0 : k.winCnt ≠ 0 := by omega
  have h7 : k.winCnt ≠ 7 := by omega
  rw [decode_running he hr hp, if_neg hc, if_neg h0, if_neg (not_not.mpr hd), if_neg h7]

/-- Everything `RUN_TICK` does: it counts (R96). -/
theorem exec_runTick (c d : Byte) (s : State) :
    exec (.runTick c d) s = .next { beginEdge s with winCnt := s.winCnt + 1 } := rfl

/-- Settles O33: `exec_runTick` for the row, and `decode_eq_runTick` for the edges that select it; up to 6 the count does
not wrap. -/
theorem runTickOnlyCounts : Obligations.RunTickOnlyCounts := by
  refine ⟨fun c d s => ⟨_, exec_runTick c d s, rfl⟩, fun w s hf hp hw h1 h6 hd => ?_⟩
  have hrow : decode s.decodeCtx w = .runTick (cOf w) (dOf w) := decode_eq_runTick hp hw h1 h6 hd
  rw [edge_of_good w hf, hrow]
  have hcnt : (s.winCnt + 1).val = s.winCnt.val + 1 := Fin.val_add_one_of_lt' (by omega)
  exact ⟨_, exec_runTick _ _ s, hcnt, rfl⟩

/-- The combiner's lanes: no bit of the result depends on a bit at another place (R98). -/
@[simp] theorem combine_getLsbD (a b : Byte) (i : Nat) :
    (combine a b).getLsbD i = (a.getLsbD i ^^ b.getLsbD i) :=
  BitVec.getLsbD_xor

theorem combine_comm (a b : Byte) : combine a b = combine b a :=
  BitVec.xor_comm a b

/-- Combining with one byte twice gives the first byte back: the law the round trip uses (R98, R103). -/
@[simp] theorem combine_cancel_right (a b : Byte) : combine (combine a b) b = a := by
  rw [combine, combine, BitVec.xor_assoc, BitVec.xor_self, BitVec.xor_zero]

/-- Settles O35: the output byte of a `RUN_STEP` on a load is `combine`, which works lane by lane. -/
theorem combinerIsBitwiseXor : Obligations.CombinerIsBitwiseXor := by
  refine ⟨fun c d b sd k s hg hw => ?_, fun a => ⟨BitVec.xor_zero, BitVec.xor_allOnes, BitVec.xor_self⟩,
    fun a b => ⟨combine_cancel_right a b, combine_comm a b⟩⟩
  exact ⟨_, combine b (Config.KS sd k), exec_runStep_of_loaded c d hg hw, rfl, fun i _ => combine_getLsbD b _ i⟩

end Sys2Proof.Machine

/-! # Rows and host words (30_encoding.md R52, R56)

`Selects` is the decode table once more, as a relation: which instruction a host word selects in a context, and on which
conditions. The decoder answers exactly what it says, and it says no more than that the word is the instruction's own, the
instruction is well formed and its row is open. Later proofs split cases along it. -/

namespace Sys2Proof.Machine

open Sys2Proof.Laws

theorem Live.ena {w : HostWord} (h : Live w) : eOf w = 1 := h.1

theorem Live.released {w : HostWord} (h : Live w) : rOf w = 1 := h.2

theorem Quiet.live {w : HostWord} (h : Quiet w) : Live w := h.1

theorem NormalEdge.live {w : HostWord} (h : NormalEdge w) : Live w := h.1

/-- The instruction that a host word selects in a context: one constructor for each row of R56, with its columns as
hypotheses. -/
inductive Selects (k : DecodeCtx) (w : HostWord) : Instr → Prop
  | enaLow (he : eOf w = 0) : Selects k w (.enaLow (rOf w) (cOf w) (dOf w))
  | rstEdge (hw : ResetEdge w) : Selects k w (.rstEdge (cOf w) (dOf w))
  | releaseShort (hp : k.phase = .idleReset) (hw : Live w) (hr : k.rstCnt.val < 3) :
      Selects k w (.releaseShort (cOf w) (dOf w))
  | releaseCtrl (hp : k.phase = .idleReset) (hw : Live w) (hr : k.rstCnt = 3) (hc : cOf w ≠ 0x00) :
      Selects k w (.releaseCtrl (cOf w) (dOf w))
  | release (hp : k.phase = .idleReset) (hw : NormalEdge w) (hr : k.rstCnt = 3) : Selects k w (.release (dOf w))
  | awaitNormal (hp : k.phase = .awaitSeed) (hw : NormalEdge w) : Selects k w (.awaitNormal (dOf w))
  | seedFf (hp : k.phase = .awaitSeed) (hw : Live w) (hc : cOf w = 0xFF) : Selects k w (.seedFf (dOf w))
  | seed (hp : k.phase = .awaitSeed) (hw : Live w) (hu : usableSeed (cOf w) = true) :
      Selects k w (.seed (cOf w) (dOf w))
  | loadFf (hp : k.phase = .seedLoading) (hw : Live w) (hc : cOf w = 0xFF) : Selects k w (.loadFf (dOf w))
  | loadTick (hp : k.phase = .seedLoading) (hw : Quiet w) : Selects k w (.loadTick (cOf w) (dOf w))
  | runReset (hp : k.phase = .running) (hw : Live w) (hc : cOf w = 0xFF) : Selects k w (.runReset (dOf w))
  | runLatch (hp : k.phase = .running) (hw : Quiet w) (h0 : k.winCnt = 0) : Selects k w (.runLatch (cOf w) (dOf w))
  | runUnstable (hp : k.phase = .running) (hw : Quiet w) (h0 : k.winCnt ≠ 0) (hd : k.winData ≠ some (dOf w)) :
      Selects k w (.runUnstable (cOf w) (dOf w))
  | runTick (hp : k.phase = .running) (hw : Quiet w) (h0 : k.winCnt ≠ 0) (h7 : k.winCnt ≠ 7)
      (hd : k.winData = some (dOf w)) : Selects k w (.runTick (cOf w) (dOf w))
  | runStep (hp : k.phase = .running) (hw : Quiet w) (h7 : k.winCnt = 7) (hd : k.winData = some (dOf w)) :
      Selects k w (.runStep (cOf w) (dOf w))
  | clearBad (hp : k.phase = .clearing) (hw : Live w) (hc : cOf w ≠ 0x00) : Selects k w (.clearBad (cOf w) (dOf w))
  | clearTick (hp : k.phase = .clearing) (hw : NormalEdge w) : Selects k w (.clearTick (dOf w))

/-- What the decoder answers, it selects on the row's conditions. -/
theorem selects_decode (k : DecodeCtx) (w : HostWord) : Selects k w (decode k w) := by
  rcases edge_kind w with he | ⟨he, hr⟩ | ⟨he, hr⟩
  · rw [decode_enaLow he]; exact .enaLow he
  · rw [decode_rstEdge he hr]; exact .rstEdge ⟨he, hr⟩
  · cases hp : k.phase with
    | idleReset =>
      rw [decode_idleReset he hr hp]
      split_ifs with hs hc
      · exact .releaseShort hp ⟨he, hr⟩ hs
      · exact .release hp ⟨⟨he, hr⟩, hc⟩ (by omega)
      · exact .releaseCtrl hp ⟨he, hr⟩ (by omega) hc
    | awaitSeed =>
      rw [decode_awaitSeed he hr hp]
      split_ifs with hn hf
      · exact .awaitNormal hp ⟨⟨he, hr⟩, hn⟩
      · exact .seedFf hp ⟨he, hr⟩ hf
      · exact .seed hp ⟨he, hr⟩ (usableSeed_iff_ne.mpr ⟨hn, hf⟩)
    | seedLoading =>
      rw [decode_seedLoading he hr hp]
      split_ifs with hf
      · exact .loadFf hp ⟨he, hr⟩ hf
      · exact .loadTick hp ⟨⟨he, hr⟩, hf⟩
    | running =>
      rw [decode_running he hr hp]
      split_ifs with hf h0 hd h7
      · exact .runReset hp ⟨he, hr⟩ hf
      · exact .runLatch hp ⟨⟨he, hr⟩, hf⟩ h0
      · exact .runUnstable hp ⟨⟨he, hr⟩, hf⟩ h0 hd
      · exact .runStep hp ⟨⟨he, hr⟩, hf⟩ h7 (not_not.mp hd)
      · exact .runTick hp ⟨⟨he, hr⟩, hf⟩ h0 h7 (not_not.mp hd)
    | clearing =>
      rw [decode_clearing he hr hp]
      split_ifs with hn
      · exact .clearTick hp ⟨⟨he, hr⟩, hn⟩
      · exact .clearBad hp ⟨he, hr⟩ hn

/-- The conditions of a row are enough for the decoder to answer it: no other row takes the word first. -/
theorem decode_of_selects {k : DecodeCtx} {w : HostWord} {i : Instr} (h : Selects k w i) : decode k w = i := by
  cases h with
  | enaLow he => exact decode_enaLow he
  | rstEdge hw => exact decode_rstEdge hw.1 hw.2
  | releaseShort hp hw hr => rw [decode_idleReset hw.1 hw.2 hp, if_pos hr]
  | releaseCtrl hp hw hr hc => rw [decode_idleReset hw.1 hw.2 hp, if_neg (by simp [hr]), if_neg hc]
  | release hp hw hr => rw [decode_idleReset hw.live.ena hw.live.released hp, if_neg (by simp [hr]), if_pos hw.2]
  | awaitNormal hp hw => rw [decode_awaitSeed hw.live.ena hw.live.released hp, if_pos hw.2]
  | seedFf hp hw hc => rw [decode_awaitSeed hw.1 hw.2 hp, if_neg (by simp [hc]), if_pos hc]
  | seed hp hw hu => exact decode_eq_seed_iff.mpr ⟨hp, hw, hu, rfl, rfl⟩
  | loadFf hp hw hc => rw [decode_seedLoading hw.1 hw.2 hp, if_pos hc]
  | loadTick hp hw => rw [decode_seedLoading hw.live.ena hw.live.released hp, if_neg hw.2]
  | runReset hp hw hc => rw [decode_running hw.1 hw.2 hp, if_pos hc]
  | runLatch hp hw h0 => rw [decode_running hw.live.ena hw.live.released hp, if_neg hw.2, if_pos h0]
  | runUnstable hp hw h0 hd => rw [decode_running hw.live.ena hw.live.released hp, if_neg hw.2, if_neg h0, if_pos hd]
  | runTick hp hw h0 h7 hd => exact decode_eq_runTick hp hw (by omega) (by omega) hd
  | runStep hp hw h7 hd =>
    rw [decode_running hw.live.ena hw.live.released hp, if_neg hw.2, if_neg (by simp [h7]), if_neg (not_not.mpr hd), if_pos h7]
  | clearBad hp hw hc => rw [decode_clearing hw.1 hw.2 hp, if_neg hc]
  | clearTick hp hw => rw [decode_clearing hw.live.ena hw.live.released hp, if_pos hw.2]

/-- The table's row of an instruction is open exactly where the row of its number fits (R56). -/
theorem selectedIn_iff_fits {i : Instr} {k : DecodeCtx} {w : HostWord} {n : Nat} {row : Row} (hw : encode i = some w)
    (hn : i.rowNo = some n) (hrow : EncodesItsRow.rowNumber n = some row) :
    i.selectedIn k = true ↔ row.fits k (dOf w) = true := by
  simp only [Instr.selectedIn, hw, hn, List.any_eq_true, Bool.and_eq_true, beq_iff_eq, Option.some.injEq]
  constructor
  · rintro ⟨row', hm, rfl, hfit⟩
    rw [EncodesItsRow.mem_decodeRows hm] at hrow
    cases hrow
    exact hfit
  · intro hfit
    exact ⟨row, List.mem_of_find?_eq_some hrow, by simpa using List.find?_some hrow, hfit⟩

/-- A live word is packed from its control byte and its data byte (R52). -/
theorem some_packWord_of_live {w : HostWord} {c : Byte} (hw : Live w) (hc : cOf w = c) :
    some (packWord 1 1 c (dOf w)) = some w := by
  rw [← hc, packWord_of_live hw.1 hw.2]

/-- The word that selects an instruction is the instruction's own (R52, R56). -/
theorem encode_of_selects {k : DecodeCtx} {w : HostWord} {i : Instr} (h : Selects k w i) : encode i = some w := by
  cases h with
  | enaLow he => exact congrArg some (packWord_of_enaLow he)
  | rstEdge hw => exact congrArg some (packWord_of_resetEdge hw.1 hw.2)
  | release _ hw | awaitNormal _ hw | clearTick _ hw => exact some_packWord_of_live hw.1 hw.2
  | seedFf _ hw hc | loadFf _ hw hc | runReset _ hw hc => exact some_packWord_of_live hw hc
  | releaseShort _ hw | releaseCtrl _ hw | seed _ hw | clearBad _ hw => exact some_packWord_of_live hw rfl
  | loadTick _ hw | runLatch _ hw | runUnstable _ hw | runTick _ hw | runStep _ hw =>
    exact some_packWord_of_live hw.1 rfl

/-- A selected instruction meets the restriction its row puts on the control byte. -/
theorem wf_of_selects {k : DecodeCtx} {w : HostWord} {i : Instr} (h : Selects k w i) : i.wf = true := by
  cases h with
  | releaseCtrl _ _ _ hc | clearBad _ _ hc => exact bne_iff_ne.mpr hc
  | seed _ _ hu => exact hu
  | loadTick _ hw | runLatch _ hw | runUnstable _ hw | runTick _ hw | runStep _ hw => exact bne_iff_ne.mpr hw.2
  | _ => rfl

/-- The row of a selected instruction is open. -/
theorem selectedIn_of_selects {k : DecodeCtx} {w : HostWord} {i : Instr} (h : Selects k w i) :
    i.selectedIn k = true := by
  have hword := encode_of_selects h
  cases h with
  | enaLow | rstEdge => exact (selectedIn_iff_fits hword rfl rfl).mpr rfl
  | releaseShort hp _ hr | releaseCtrl hp _ hr | release hp _ hr =>
    exact (selectedIn_iff_fits hword rfl rfl).mpr (by simp [Row.fits, hp, hr])
  | runLatch hp _ h0 => exact (selectedIn_iff_fits hword rfl rfl).mpr (by simp [Row.fits, hp, h0])
  | runUnstable hp _ h0 hd =>
    exact (selectedIn_iff_fits hword rfl rfl).mpr (by simp [Row.fits, hp, hd]; omega)
  | runTick hp _ h0 h7 hd =>
    exact (selectedIn_iff_fits hword rfl rfl).mpr (by simp [Row.fits, hp, hd]; omega)
  | runStep hp _ h7 hd => exact (selectedIn_iff_fits hword rfl rfl).mpr (by simp [Row.fits, hp, h7, hd])
  | awaitNormal hp | seedFf hp | seed hp | loadFf hp | loadTick hp | runReset hp | clearBad hp | clearTick hp =>
    exact (selectedIn_iff_fits hword rfl rfl).mpr (by simp [Row.fits, hp])

/-- Settles O14: what the decoder answers, the word selects. -/
theorem encodeOfDecodeIsTheHostWord : Obligations.EncodeOfDecodeIsTheHostWord := fun k w =>
  have h := selects_decode k w
  ⟨encode_of_selects h, wf_of_selects h, selectedIn_of_selects h⟩

theorem live_packWord (c d : Byte) : Live (packWord 1 1 c d) :=
  ⟨eOf_packWord 1 1 c d, rOf_packWord 1 1 c d⟩

theorem quiet_packWord {c : Byte} (d : Byte) (hc : c ≠ 0xFF) : Quiet (packWord 1 1 c d) :=
  ⟨live_packWord c d, by rwa [cOf_packWord]⟩

theorem normalEdge_packWord (d : Byte) : NormalEdge (packWord 1 1 0x00 d) :=
  ⟨live_packWord 0x00 d, cOf_packWord 1 1 0x00 d⟩

theorem resetEdge_packWord (c d : Byte) : ResetEdge (packWord 0 1 c d) :=
  ⟨eOf_packWord 0 1 c d, rOf_packWord 0 1 c d⟩

/-- A row of one phase fits where the phase is that one and the other condition holds (R56). -/
theorem fits_iff_of_phase {row : Row} {p : Phase} (hrow : row.phase = some p) (k : DecodeCtx) (d : Byte) :
    row.fits k d = true ↔ k.phase = p ∧ row.cond k d = true := by
  simp [Row.fits, hrow, eq_comm (a := p)]

/-- The converse: the word of a well-formed instruction whose row is open selects it. -/
theorem selects_of_encode {k : DecodeCtx} {w : HostWord} {i : Instr} (hwf : i.wf = true)
    (hsel : i.selectedIn k = true) (hword : encode i = some w) : Selects k w i := by
  have hopen {n : Nat} {row : Row} {p : Phase} (hn : i.rowNo = some n)
      (hrow : EncodesItsRow.rowNumber n = some row) (hp : row.phase = some p) :
      k.phase = p ∧ row.cond k (dOf w) = true :=
    (fits_iff_of_phase hp k _).mp ((selectedIn_iff_fits hword hn hrow).mp hsel)
  cases i with
  | genLoad sd | genClear | genStep => cases hword
  | enaLow r c d =>
    cases hword
    simpa using Selects.enaLow (k := k) (eOf_packWord r 0 c d)
  | rstEdge c d =>
    cases hword
    simpa using Selects.rstEdge (k := k) (resetEdge_packWord c d)
  | releaseShort c d =>
    obtain ⟨hp, hr⟩ := hopen rfl rfl rfl
    cases hword
    simpa using Selects.releaseShort hp (live_packWord c d) (of_decide_eq_true hr)
  | releaseCtrl c d =>
    obtain ⟨hp, hr⟩ := hopen rfl rfl rfl
    cases hword
    simpa using Selects.releaseCtrl hp (live_packWord c d) (of_decide_eq_true hr) (by simpa [Instr.wf] using hwf)
  | release d =>
    obtain ⟨hp, hr⟩ := hopen rfl rfl rfl
    cases hword
    simpa using Selects.release hp (normalEdge_packWord d) (of_decide_eq_true hr)
  | awaitNormal d =>
    obtain ⟨hp, -⟩ := hopen rfl rfl rfl
    cases hword
    simpa using Selects.awaitNormal hp (normalEdge_packWord d)
  | seedFf d =>
    obtain ⟨hp, -⟩ := hopen rfl rfl rfl
    cases hword
    simpa using Selects.seedFf hp (live_packWord 0xFF d) (cOf_packWord _ _ _ _)
  | seed c d =>
    obtain ⟨hp, -⟩ := hopen rfl rfl rfl
    cases hword
    simpa using Selects.seed hp (live_packWord c d) (by rwa [cOf_packWord])
  | loadFf d =>
    obtain ⟨hp, -⟩ := hopen rfl rfl rfl
    cases hword
    simpa using Selects.loadFf hp (live_packWord 0xFF d) (cOf_packWord _ _ _ _)
  | loadTick c d =>
    obtain ⟨hp, -⟩ := hopen rfl rfl rfl
    cases hword
    simpa using Selects.loadTick hp (quiet_packWord d (bne_iff_ne.mp hwf))
  | runReset d =>
    obtain ⟨hp, -⟩ := hopen rfl rfl rfl
    cases hword
    simpa using Selects.runReset hp (live_packWord 0xFF d) (cOf_packWord _ _ _ _)
  | runLatch c d =>
    obtain ⟨hp, h0⟩ := hopen rfl rfl rfl
    cases hword
    simpa using Selects.runLatch hp (quiet_packWord d (bne_iff_ne.mp hwf)) (of_decide_eq_true h0)
  | runUnstable c d =>
    obtain ⟨hp, hcond⟩ := hopen rfl rfl rfl
    obtain ⟨h1, hd⟩ := Bool.and_eq_true_iff.mp hcond
    cases hword
    simpa using Selects.runUnstable hp (quiet_packWord d (bne_iff_ne.mp hwf))
      (by have := of_decide_eq_true h1; omega) (bne_iff_ne.mp hd)
  | runTick c d =>
    obtain ⟨hp, hcond⟩ := hopen rfl rfl rfl
    obtain ⟨h16, hd⟩ := Bool.and_eq_true_iff.mp hcond
    obtain ⟨h1, h6⟩ := Bool.and_eq_true_iff.mp h16
    cases hword
    simpa using Selects.runTick hp (quiet_packWord d (bne_iff_ne.mp hwf))
      (by have := of_decide_eq_true h1; omega) (by have := of_decide_eq_true h6; omega) (beq_iff_eq.mp hd)
  | runStep c d =>
    obtain ⟨hp, hcond⟩ := hopen rfl rfl rfl
    obtain ⟨h7, hd⟩ := Bool.and_eq_true_iff.mp hcond
    cases hword
    simpa using Selects.runStep hp (quiet_packWord d (bne_iff_ne.mp hwf)) (of_decide_eq_true h7) (beq_iff_eq.mp hd)
  | clearBad c d =>
    obtain ⟨hp, -⟩ := hopen rfl rfl rfl
    cases hword
    simpa using Selects.clearBad hp (live_packWord c d) (by simpa [Instr.wf] using hwf)
  | clearTick d =>
    obtain ⟨hp, -⟩ := hopen rfl rfl rfl
    cases hword
    simpa using Selects.clearTick hp (normalEdge_packWord d)

/-- Settles O13: the word selects the instruction, so it decodes to it. -/
theorem decodeOfEncodeIsTheInstruction : Obligations.DecodeOfEncodeIsTheInstruction :=
  fun _ _ _ hwf hsel hword => decode_of_selects (selects_of_encode hwf hsel hword)

/-- The mask of rows 1 to 4, 8, 10, 12 to 16 and the bits of a live edge (R56). -/
theorem and_mask_eq_live_iff {w : HostWord} : w &&& 0x30000 = 0x30000 ↔ Live w := by
  rw [and_mask_pins, show (0x30000 : HostWord) = packWord 1 1 0 0 from rfl, packWord_inj, Live]
  simp [and_comm]

/-- The bits of a reset edge (R56, row 2). -/
theorem and_mask_eq_reset_iff {w : HostWord} : w &&& 0x30000 = 0x10000 ↔ ResetEdge w := by
  rw [and_mask_pins, show (0x10000 : HostWord) = packWord 0 1 0 0 from rfl, packWord_inj, ResetEdge]
  simp [and_comm]

/-- The bits of an edge with `ena = 0` (R56, row 1). -/
theorem and_mask_eq_enaLow_iff {w : HostWord} : w &&& 0x10000 = 0x00000 ↔ eOf w = 0 := by
  rw [and_mask_ena, show (0x00000 : HostWord) = packWord 0 0 0 0 from rfl, packWord_inj]
  simp

/-- The bits of a live edge with the control byte `NORMAL` (R56). -/
theorem and_mask_eq_normal_iff {w : HostWord} : w &&& 0x3FF00 = 0x30000 ↔ NormalEdge w := by
  rw [and_mask_ctrl, show (0x30000 : HostWord) = packWord 1 1 0x00 0 from rfl, packWord_inj, NormalEdge, Live]
  tauto

/-- The bits of a live edge with the control byte `RESET` (R56). -/
theorem and_mask_eq_ff_iff {w : HostWord} : w &&& 0x3FF00 = 0x3FF00 ↔ Live w ∧ cOf w = 0xFF := by
  rw [and_mask_ctrl, show (0x3FF00 : HostWord) = packWord 1 1 0xFF 0 from rfl, packWord_inj, Live]
  tauto

/-- A row of the table that matches the edge is the row of what the word selects: no two rows match (R56). -/
theorem rowNo_of_admits {k : DecodeCtx} {w : HostWord} {row : Row} (hm : row ∈ decodeRows)
    (h : row.admits k w = true) : ∃ i, Selects k w i ∧ i.rowNo = some row.no := by
  obtain ⟨hbits, hctrl, hfit⟩ : w &&& row.mask = row.bits ∧ row.ctrl (cOf w) = true ∧ row.fits k (dOf w) = true := by
    simpa [Row.admits, and_assoc] using h
  have hopen {p : Phase} (hp : row.phase = some p) := (fits_iff_of_phase hp k (dOf w)).mp hfit
  simp only [decodeRows, List.cons_append, List.nil_append, List.mem_cons, List.not_mem_nil, or_false] at hm
  rcases hm with rfl | rfl | rfl | rfl | rfl | rfl | rfl | rfl | rfl | rfl | rfl | rfl | rfl | rfl | rfl | rfl | rfl
  · exact ⟨_, .enaLow (and_mask_eq_enaLow_iff.mp hbits), rfl⟩
  · exact ⟨_, .rstEdge (and_mask_eq_reset_iff.mp hbits), rfl⟩
  · obtain ⟨hp, hr⟩ := hopen rfl
    exact ⟨_, .releaseShort hp (and_mask_eq_live_iff.mp hbits) (of_decide_eq_true hr), rfl⟩
  · obtain ⟨hp, hr⟩ := hopen rfl
    exact ⟨_, .releaseCtrl hp (and_mask_eq_live_iff.mp hbits) (of_decide_eq_true hr) (bne_iff_ne.mp hctrl), rfl⟩
  · obtain ⟨hp, hr⟩ := hopen rfl
    exact ⟨_, .release hp (and_mask_eq_normal_iff.mp hbits) (of_decide_eq_true hr), rfl⟩
  · exact ⟨_, .awaitNormal (hopen rfl).1 (and_mask_eq_normal_iff.mp hbits), rfl⟩
  · obtain ⟨hw, hc⟩ := and_mask_eq_ff_iff.mp hbits
    exact ⟨_, .seedFf (hopen rfl).1 hw hc, rfl⟩
  · have hu : usableSeed (cOf w) = true := (usableSeed_iff _).mpr (by simpa using hctrl)
    exact ⟨_, .seed (hopen rfl).1 (and_mask_eq_live_iff.mp hbits) hu, rfl⟩
  · obtain ⟨hw, hc⟩ := and_mask_eq_ff_iff.mp hbits
    exact ⟨_, .loadFf (hopen rfl).1 hw hc, rfl⟩
  · exact ⟨_, .loadTick (hopen rfl).1 ⟨and_mask_eq_live_iff.mp hbits, bne_iff_ne.mp hctrl⟩, rfl⟩
  · obtain ⟨hw, hc⟩ := and_mask_eq_ff_iff.mp hbits
    exact ⟨_, .runReset (hopen rfl).1 hw hc, rfl⟩
  · obtain ⟨hp, h0⟩ := hopen rfl
    exact ⟨_, .runLatch hp ⟨and_mask_eq_live_iff.mp hbits, bne_iff_ne.mp hctrl⟩ (of_decide_eq_true h0), rfl⟩
  · obtain ⟨hp, hcond⟩ := hopen rfl
    obtain ⟨h1, hd⟩ : 1 ≤ k.winCnt.val ∧ k.winData ≠ some (dOf w) := by simpa using hcond
    exact ⟨_, .runUnstable hp ⟨and_mask_eq_live_iff.mp hbits, bne_iff_ne.mp hctrl⟩ (by omega) hd, rfl⟩
  · obtain ⟨hp, hcond⟩ := hopen rfl
    obtain ⟨⟨h1, h6⟩, hd⟩ : (1 ≤ k.winCnt.val ∧ k.winCnt.val ≤ 6) ∧ k.winData = some (dOf w) := by
      simpa using hcond
    exact ⟨_, .runTick hp ⟨and_mask_eq_live_iff.mp hbits, bne_iff_ne.mp hctrl⟩ (by omega) (by omega) hd, rfl⟩
  · obtain ⟨hp, hcond⟩ := hopen rfl
    obtain ⟨h7, hd⟩ : k.winCnt = 7 ∧ k.winData = some (dOf w) := by simpa using hcond
    exact ⟨_, .runStep hp ⟨and_mask_eq_live_iff.mp hbits, bne_iff_ne.mp hctrl⟩ h7 hd, rfl⟩
  · exact ⟨_, .clearBad (hopen rfl).1 (and_mask_eq_live_iff.mp hbits) (bne_iff_ne.mp hctrl), rfl⟩
  · exact ⟨_, .clearTick (hopen rfl).1 (and_mask_eq_normal_iff.mp hbits), rfl⟩

/-- The laws of the encoding, of every instruction at once (R56, R57). -/
theorem encodesItsRow : ∀ i : Instr, EncodesItsRow.Statement i
  | .enaLow r c d => EncodesItsRow.enaLow r c d
  | .rstEdge c d => EncodesItsRow.rstEdge c d
  | .releaseShort c d => EncodesItsRow.releaseShort c d
  | .releaseCtrl c d => EncodesItsRow.releaseCtrl c d
  | .release d => EncodesItsRow.release d
  | .awaitNormal d => EncodesItsRow.awaitNormal d
  | .seedFf d => EncodesItsRow.seedFf d
  | .seed c d => EncodesItsRow.seed c d
  | .loadFf d => EncodesItsRow.loadFf d
  | .loadTick c d => EncodesItsRow.loadTick c d
  | .runReset d => EncodesItsRow.runReset d
  | .runLatch c d => EncodesItsRow.runLatch c d
  | .runUnstable c d => EncodesItsRow.runUnstable c d
  | .runTick c d => EncodesItsRow.runTick c d
  | .runStep c d => EncodesItsRow.runStep c d
  | .clearBad c d => EncodesItsRow.clearBad c d
  | .clearTick d => EncodesItsRow.clearTick d
  | .genLoad sd => EncodesItsRow.genLoad sd
  | .genClear => EncodesItsRow.genClear
  | .genStep => EncodesItsRow.genStep

/-- The column `c` of the row of a selected instruction (R56). -/
theorem ctrl_of_selects {k : DecodeCtx} {w : HostWord} {i : Instr} {row : Row} (h : Selects k w i)
    (hm : row ∈ decodeRows) (hn : i.rowNo = some row.no) : row.ctrl (cOf w) = true := by
  have hrow {n : Nat} (hi : i.rowNo = some n) : EncodesItsRow.rowNumber n = some row := by
    rw [← Option.some.inj (hn.symm.trans hi)]
    exact EncodesItsRow.mem_decodeRows hm
  cases h with
  | releaseCtrl _ _ _ hc | clearBad _ _ hc => cases hrow rfl; exact bne_iff_ne.mpr hc
  | seed _ _ hu => cases hrow rfl; simpa using (usableSeed_iff _).mp hu
  | loadTick _ hw | runLatch _ hw | runUnstable _ hw | runTick _ hw | runStep _ hw =>
    cases hrow rfl; exact bne_iff_ne.mpr hw.2
  | _ => cases hrow rfl; rfl

/-- A row of the table matches the edge exactly where it is the row of what the decoder answers (R56). -/
theorem admits_iff {k : DecodeCtx} {w : HostWord} {row : Row} (hm : row ∈ decodeRows) :
    row.admits k w = true ↔ (decode k w).rowNo = some row.no := by
  constructor
  · intro h
    obtain ⟨i, hi, hn⟩ := rowNo_of_admits hm h
    rwa [decode_of_selects hi]
  · intro hn
    have h := selects_decode k w
    have hbits := (encodesItsRow _).2 w row (encode_of_selects h) hm hn.symm
    have hfit := (selectedIn_iff_fits (encode_of_selects h) hn (EncodesItsRow.mem_decodeRows hm)).mp
      (selectedIn_of_selects h)
    simp [Row.admits, hbits, ctrl_of_selects h hm hn, hfit]

/-- The number of a row occurs once in the table (R56). -/
theorem filter_no_eq_singleton {row : Row} (hm : row ∈ decodeRows) :
    (decodeRows.filter fun r => r.no == row.no) = [row] := by
  simp only [decodeRows, List.cons_append, List.nil_append, List.mem_cons, List.not_mem_nil, or_false] at hm
  rcases hm with rfl | rfl | rfl | rfl | rfl | rfl | rfl | rfl | rfl | rfl | rfl | rfl | rfl | rfl | rfl | rfl | rfl <;>
    rfl

/-- The decoder answers a row of the table (R56). -/
theorem exists_row_of_decode (k : DecodeCtx) (w : HostWord) :
    ∃ row ∈ decodeRows, (decode k w).rowNo = some row.no := by
  have hsel := selectedIn_of_selects (selects_decode k w)
  rw [Instr.selectedIn, encode_of_selects (selects_decode k w)] at hsel
  obtain ⟨row, hm, h⟩ := List.any_eq_true.mp hsel
  exact ⟨row, hm, (beq_iff_eq.mp (Bool.and_eq_true_iff.mp h).1).symm⟩

/-- Settles O12: the rows that match are the rows with the number of what the decoder answers, and there is one. -/
theorem everyEdgeIsMatchedByExactlyOneRow : Obligations.EveryEdgeIsMatchedByExactlyOneRow := by
  intro k w
  obtain ⟨row, hm, hn⟩ := exists_row_of_decode k w
  refine ⟨row, ?_, hn⟩
  rw [← filter_no_eq_singleton hm]
  refine List.filter_congr fun r hr => Bool.eq_iff_iff.mpr ?_
  rw [admits_iff hr, hn, beq_iff_eq, Option.some.injEq, eq_comm]

end Sys2Proof.Machine

/-! # Single edges and rows (41_protocol_controller.md, 42_byte_combiner.md section 2, 60_exceptions.md section 1)

The result of each row from every state, and the edges that select it. -/

namespace Sys2Proof.Machine

/-- An edge without a misuse before it runs what its word selects (R74). -/
theorem edge_of_selects {w : HostWord} {s : State} {i : Instr} (hf : s.fault = none)
    (h : Selects s.decodeCtx w i) : edge w s = exec i s := by
  rw [edge_of_good w hf, decode_of_selects h]

/-- A first misuse is recorded by an edge with its output bits cleared and nothing else (R10, R32). -/
theorem raise_beginEdge_of_good {s : State} (m : Misuse) (hf : s.fault = none) :
    raise m (beginEdge s) = { s with outValid := false, stepOut := none, fault := some m } := by
  simp [raise, beginEdge, hf]

/-- Settles O16: `decode` evaluated on the nine words. -/
theorem specVectorsDecodeToTheirRows : Obligations.SpecVectorsDecodeToTheirRows := by
  refine ⟨?_, ?_, ?_, ?_, ?_, ?_, ?_, ?_, ?_⟩ <;> decide

/-- Settles O17: the bound that `decodeNat` tests is that of 18 bits. -/
theorem widerNumbersAreRejectedByName : Obligations.WiderNumbersAreRejectedByName := by
  refine fun k n => ⟨fun h => if_neg (not_lt.mpr h), fun h => ⟨BitVec.ofNat 18 n, ?_, if_pos h⟩⟩
  rw [BitVec.toNat_ofNat, Nat.mod_eq_of_lt h]

/-- Settles O18: a step is the edge of the first host word, and an edge without a misuse runs its row. -/
theorem stepRunsTheDecodedInstruction : Obligations.StepRunsTheDecodedInstruction := by
  intro s w rest hs hf
  rw [step_of_schedule hs]
  exact edge_of_good w hf

/-- Settles O19: a step is the edge of the first host word, and an edge on a misuse changes nothing. -/
theorem faultedEdgesChangeNothing : Obligations.FaultedEdgesChangeNothing := by
  intro s m w rest hf hs
  rw [step_of_schedule hs]
  exact edge_of_fault w hf

/-- Settles O21: the word that `decodeTableWord` reads is the one that `withFetchWord` drives, in the context of
power-on. -/
theorem firstHostWordRunsFirst : Obligations.FirstHostWordRunsFirst := by
  intro nbits n i h
  obtain ⟨w, hw, rfl⟩ := Option.map_eq_some_iff.mp h
  have hdrive : State.reset.withFetchWord nbits n = driveNext w State.reset := by
    simp only [State.withFetchWord, hw]
  rw [hdrive, step_of_schedule (driveNext_schedule w _)]
  exact edge_of_good w rfl

/-- Settles O22: the order of the tests in `edge`, and of the rows in `Selects`. -/
theorem edgePriorityHolds : Obligations.EdgePriorityHolds :=
  ⟨fun w _ _ => edge_of_fault w, fun _ _ hf he => edge_of_selects hf (.enaLow he),
    fun _ _ hf hw => edge_of_selects hf (.rstEdge hw), fun _ _ hf hp hw hc => edge_of_selects hf (.runReset hp hw hc)⟩

/-- Settles O23: each of the six rows is one `raise` of its misuse, with the word that encodes the row. -/
theorem misuseRowsRecordTheirCode : Obligations.MisuseRowsRecordTheirCode := by
  intro s hf
  have hraise (m : Misuse) := congrArg (.next : State → Result) (raise_beginEdge_of_good m hf)
  exact ⟨fun r c d => ⟨_, rfl, rfl, hraise _⟩, fun c d => ⟨_, rfl, rfl, hraise _⟩, fun c d => ⟨_, rfl, rfl, hraise _⟩,
    fun d => ⟨_, rfl, rfl, hraise _⟩, fun d => ⟨_, rfl, rfl, hraise _⟩, fun c d => ⟨_, rfl, rfl, hraise _⟩⟩

/-- `RUN_UNSTABLE` where the window's byte was written (R95). -/
theorem exec_runUnstable_of_written (c d : Byte) {s : State} {b : Byte} (hw : s.winData = some b) :
    exec (.runUnstable c d) s = .next (raise (.dataUnstable (packWord 1 1 c d) s.winCnt b) (beginEdge s)) := by
  simp only [exec, execRunUnstable, hw]

/-- `RUN_UNSTABLE` where nothing has written the window's byte (R34; log 17). -/
theorem exec_runUnstable_of_unwritten (c d : Byte) {s : State} (hw : s.winData = none) :
    exec (.runUnstable c d) s = .next (raise (.undefRead .winData) (beginEdge s)) := by
  simp only [exec, execRunUnstable, hw]

/-- Settles O24: the two cases of the row, each a first misuse. -/
theorem runUnstableRecordsMisuseM7 : Obligations.RunUnstableRecordsMisuseM7 := by
  refine fun c d s hf => ⟨fun b hw => ⟨_, rfl, rfl, ?_⟩, fun hw => ?_⟩
  · rw [exec_runUnstable_of_written c d hw, raise_beginEdge_of_good _ hf]
  · rw [exec_runUnstable_of_unwritten c d hw, raise_beginEdge_of_good _ hf]

/-- Settles O25: `RST_EDGE` is `resetEdge`, whose count saturates. -/
theorem resetEdgeResult : Obligations.ResetEdgeResult := fun _ _ s =>
  ⟨resetEdge (beginEdge s), rfl, rfl, rfl, bumpRst_val s.rstCnt, rfl, rfl, rfl, rfl, rfl, rfl, rfl⟩

/-- Settles O26: the row's result, and the edge that selects the row. -/
theorem releaseEntersAwaitSeed : Obligations.ReleaseEntersAwaitSeed :=
  ⟨fun _ _ => rfl, fun _ _ hf hp hr hw => edge_of_selects hf (.release hp hw hr)⟩

/-- `LOAD_TICK` is one edge of the seed settle (R85). -/
theorem exec_loadTick (c d : Byte) (s : State) :
    exec (.loadTick c d) s = .next (loadSettle Config.SEED_SETTLE (beginEdge s)) := rfl

/-- `CLEAR_TICK` is one edge of the clear settle (R88). -/
theorem exec_clearTick (d : Byte) (s : State) :
    exec (.clearTick d) s = .next (clearSettle Config.CLEAR_SETTLE (beginEdge s)) := rfl

/-- Settles O29: the two cases of the seed settle. -/
theorem loadTickCountsTheSeedSettle : Obligations.LoadTickCountsTheSeedSettle := by
  intro c d s
  rw [exec_loadTick]
  rcases loadSettle_cases Config.SEED_SETTLE (beginEdge s) with ⟨hn, h⟩ | ⟨hn, h⟩ <;> rw [h]
  · exact ⟨fun _ => rfl, fun hne => absurd hn hne⟩
  · exact ⟨fun he => absurd he hn, fun _ => rfl⟩

/-- Settles O30: the row's result, and the edge that selects the row at every window count. -/
theorem runResetClearsAtEveryWindowCount : Obligations.RunResetClearsAtEveryWindowCount :=
  ⟨fun _ _ => rfl, fun _ _ hf hp hw hc => edge_of_selects hf (.runReset hp hw hc)⟩

/-- Settles O31: the two cases of the clear settle. -/
theorem clearTickCountsTheClearSettle : Obligations.ClearTickCountsTheClearSettle := by
  intro d s
  rw [exec_clearTick]
  rcases clearSettle_cases Config.CLEAR_SETTLE (beginEdge s) with ⟨hn, h⟩ | ⟨hn, h⟩ <;> rw [h]
  · exact ⟨fun _ => rfl, fun hne => absurd hn hne⟩
  · exact ⟨fun he => absurd he hn, fun _ => rfl⟩

/-- Settles O32: the row's result, and the edge that selects the row. -/
theorem runLatchTakesTheDataByte : Obligations.RunLatchTakesTheDataByte :=
  ⟨fun _ _ _ => rfl, fun _ _ hf hp h0 hw => edge_of_selects hf (.runLatch hp hw h0)⟩

/-- Settles O34: the output case and the two misuse cases of `exec_runStep_cases`. -/
theorem runStepProducesTheOutputByte : Obligations.RunStepProducesTheOutputByte := by
  refine fun c d s => ⟨fun sd k b hg hw => exec_runStep_of_loaded c d hg hw, fun hf hg => ?_, fun sd k hf hg hw => ?_⟩
  · rw [← raise_beginEdge_of_good _ hf]
    rcases exec_runStep_cases c d s with ⟨sd, k, b, hl, -⟩ | ⟨-, h⟩ | ⟨⟨sd, k, hl⟩, -⟩
    · simp [hl] at hg
    · exact h
    · simp [hl] at hg
  · rw [← raise_beginEdge_of_good _ hf]
    rcases exec_runStep_cases c d s with ⟨-, -, b, -, hb, -⟩ | ⟨hn, -⟩ | ⟨-, -, h⟩
    · simp [hw] at hb
    · simp [hg] at hn
    · exact h

/-- Settles O42: the three cases of `out_valid` and `out_reg` at an observation point. -/
theorem observationShowsTheOutputRegister : Obligations.ObservationShowsTheOutputRegister := by
  refine fun s => ⟨fun b hv hb => ?_, fun hv => ?_, fun hv hb hf => ?_⟩
  · simp [State.observe, dataOut_of_outValid hv hb, hv, hb]
  · simp [State.observe, State.dataOut, hv]
  · simp [State.observe, raise, hv, hb, hf]

end Sys2Proof.Machine

/-! # What an instruction can do to each field (10_state.md sections 2 and 3)

The frame of every instruction, the two ways it can leave the misuse, and what an edge leaves in the two fields that speak
of the edge just taken. -/

namespace Sys2Proof.Machine

/-- Settles O39: one case for each instruction; the settles and `RUN_STEP` by what they can do. -/
theorem eachFieldIsWrittenByItsRowsOnly : Obligations.EachFieldIsWrittenByItsRowsOnly := by
  intro i s t h
  cases i with
  | loadTick c d =>
    rw [exec_loadTick] at h
    rcases loadSettle_cases Config.SEED_SETTLE (beginEdge s) with ⟨-, he⟩ | ⟨-, he⟩ <;> rw [he] at h <;> cases h <;>
      simp [Instr.rowNo, Instr.isEdge]
  | clearTick d =>
    rw [exec_clearTick] at h
    rcases clearSettle_cases Config.CLEAR_SETTLE (beginEdge s) with ⟨-, he⟩ | ⟨-, he⟩ <;> rw [he] at h <;> cases h <;>
      simp [Instr.rowNo, Instr.isEdge]
  | runUnstable c d =>
    obtain ⟨m, he⟩ := exec_runUnstable_eq_raise c d s
    rw [he] at h; cases h; simp [Instr.rowNo, Instr.isEdge]
  | runStep c d =>
    rcases exec_runStep_cases c d s with ⟨sd, k, b, -, -, he⟩ | ⟨-, he⟩ | ⟨-, -, he⟩ <;> rw [he] at h <;> cases h <;>
      simp [Instr.rowNo, Instr.isEdge]
  | genStep =>
    cases hg : s.gen with
    | loaded sd k => rw [exec_genStep_of_loaded hg] at h; cases h; simp [Instr.isEdge, Instr.rowNo]
    | undef => rw [exec_genStep_of_not_loaded (.inl hg)] at h; cases h; simp [hg]
    | cleared => rw [exec_genStep_of_not_loaded (.inr hg)] at h; cases h; simp [hg]
  | _ => cases h; simp [Instr.rowNo, Instr.isEdge]

/-- No instruction touches the host's schedule or the draw counter (logs 2, 6). -/
theorem exec_keeps_schedule {i : Instr} {s t : State} (h : exec i s = .next t) :
    t.schedule = s.schedule ∧ t.draws = s.draws := by
  obtain ⟨-, -, -, -, -, -, -, -, -, -, -, hkeep⟩ := eachFieldIsWrittenByItsRowsOnly i s t h
  exact hkeep

/-- No edge touches the host's schedule or the draw counter (logs 2, 6). -/
theorem edge_keeps_schedule {w : HostWord} {s t : State} (h : edge w s = .next t) :
    t.schedule = s.schedule ∧ t.draws = s.draws := by
  cases hf : s.fault with
  | none => rw [edge_of_good w hf] at h; exact exec_keeps_schedule h
  | some m => rw [edge_of_fault w hf] at h; cases h; exact ⟨rfl, rfl⟩

/-- Settles O20: a step takes the first word and its edge, which answers a next state and leaves the schedule alone. -/
theorem stepCompletesWhileAHostWordIsLeft : Obligations.StepCompletesWhileAHostWordIsLeft := by
  refine fun s => ⟨fun hne => ?_, fun hnil => by simp [step, takeWord, hnil]⟩
  obtain ⟨w, rest, hs⟩ := List.exists_cons_of_ne_nil hne
  obtain ⟨t, ht⟩ := edge_answers w { s with schedule := rest, draws := s.draws + 1 }
  obtain ⟨hsched, hdraws⟩ := edge_keeps_schedule ht
  exact ⟨t, (step_of_schedule hs).trans ht, by rw [hsched, hs]; rfl, hdraws⟩

/-- An instruction leaves the misuse as it was, or records one where none was recorded (R32). -/
theorem exec_fault_cases {i : Instr} {s t : State} (h : exec i s = .next t) :
    t.fault = s.fault ∨ ∃ m, t.fault = some (s.fault.getD m) := by
  cases i with
  | enaLow | releaseShort | releaseCtrl | seedFf | loadFf | clearBad => cases h; exact .inr ⟨_, rfl⟩
  | runUnstable c d =>
    obtain ⟨m, he⟩ := exec_runUnstable_eq_raise c d s
    rw [he] at h; cases h; exact .inr ⟨m, rfl⟩
  | runStep c d =>
    rcases exec_runStep_cases c d s with ⟨sd, k, b, -, -, he⟩ | ⟨-, he⟩ | ⟨-, -, he⟩ <;> rw [he] at h <;> cases h
    · exact .inl rfl
    · exact .inr ⟨_, rfl⟩
    · exact .inr ⟨_, rfl⟩
  | genStep =>
    cases hg : s.gen with
    | loaded sd k => rw [exec_genStep_of_loaded hg] at h; cases h; exact .inl rfl
    | undef => rw [exec_genStep_of_not_loaded (.inl hg)] at h; cases h; exact .inr ⟨_, rfl⟩
    | cleared => rw [exec_genStep_of_not_loaded (.inr hg)] at h; cases h; exact .inr ⟨_, rfl⟩
  | loadTick | clearTick => cases h; simp
  | _ => cases h; exact .inl rfl

/-- A step is the edge of a word that the schedule held (R11, R49). -/
theorem edge_of_step {s t : State} (h : step s = .next t) :
    ∃ w rest, s.schedule = w :: rest ∧ edge w { s with schedule := rest, draws := s.draws + 1 } = .next t := by
  rcases takeWord_cases s with ⟨-, hw⟩ | ⟨w, rest, hs, -⟩
  · rw [step, hw] at h; cases h
  · exact ⟨w, rest, hs, step_of_schedule hs ▸ h⟩

/-- Several steps are a first one and the others (R131). -/
theorem stepN_succ_eq_next {n : Nat} {s u : State} (h : stepN (n + 1) s = .next u) :
    ∃ t, step s = .next t ∧ stepN n t = .next u := by
  rw [stepN] at h
  cases hs : step s with
  | next t => rw [hs] at h; exact ⟨t, rfl, h⟩
  | fault f => rw [hs] at h; cases h
  | refused r => rw [hs] at h; cases h

/-- Steps on a quiescent state keep its misuse (R75). -/
theorem stepN_keeps_misuse {n : Nat} {s t : State} {m : Misuse} (h : stepN n s = .next t) (hf : s.fault = some m) :
    t.fault = some m := by
  induction n generalizing s with
  | zero => cases h; exact hf
  | succ n ih =>
    obtain ⟨u, hu, hn⟩ := stepN_succ_eq_next h
    obtain ⟨w, rest, -, he⟩ := edge_of_step hu
    have hstay := (edge_of_fault (s := { s with schedule := rest, draws := s.draws + 1 }) w hf).symm.trans he
    cases hstay
    exact ih hn hf

/-- Settles O38: the instructions by `exec_fault_cases`, the steps by quiescence, an observation by `raise`. -/
theorem misuseIsSticky : Obligations.MisuseIsSticky := by
  refine ⟨fun i s t m h hf => ?_, fun n s t m => stepN_keeps_misuse, fun s m hf => ?_⟩
  · rcases exec_fault_cases h with ht | ⟨m', ht⟩ <;> simp [ht, hf]
  · simp only [State.observe]
    split_ifs
    · simp [hf]
    · exact hf

/-- Settles O2: of the cases of `exec_gen_cases`, keeping a cleared generator is the only one left. -/
theorem genClearSetsClearedFromEveryState : Obligations.GenClearSetsClearedFromEveryState := by
  refine ⟨fun _ => rfl, fun i s t hi hne h ht => ?_⟩
  rcases exec_gen_cases hi h with hg | ⟨-, hg⟩ | ⟨c, d, -, hg⟩ | ⟨⟨d, hr⟩, -⟩ | ⟨-, sd, k, -, hg⟩
  · rw [← hg, ht]
  · simp [ht] at hg
  · simp [ht] at hg
  · exact absurd hr (hne d)
  · simp [ht] at hg

/-- Every edge but `RUN_STEP` leaves `stepOut` empty (R74; log 14). -/
theorem stepOut_eq_none_of_rowNo_ne {i : Instr} {s t : State} (hi : i.isEdge = true) (h15 : i.rowNo ≠ some 15)
    (h : exec i s = .next t) : t.stepOut = none := by
  cases i with
  | genLoad sd | genClear | genStep => cases hi
  | runStep c d => exact absurd rfl h15
  | runUnstable c d =>
    obtain ⟨m, he⟩ := exec_runUnstable_eq_raise c d s
    rw [he] at h; cases h; rfl
  | loadTick c d | clearTick d => cases h; simp
  | _ => cases h; rfl

/-- Settles O4: row 15 writes `stepOut` in its output case, and no other edge leaves it set. -/
theorem stepOutHoldsTheReturnedByte : Obligations.StepOutHoldsTheReturnedByte := by
  refine ⟨fun sd k s => exec_genStep_of_loaded, fun c d b sd k s hg hw => ⟨_, exec_runStep_of_loaded c d hg hw, rfl⟩,
    fun i s t x hi h => ?_⟩
  by_cases h15 : i.rowNo = some 15
  · obtain ⟨c, d, rfl⟩ := rowNo_eq_15_iff.mp h15
    rcases exec_runStep_cases c d s with ⟨sd, k, b, hg, hw, he⟩ | ⟨hg, he⟩ | ⟨-, hw, he⟩ <;> rw [he] at h <;> cases h
    · simp [Instr.rowNo, hg, hw, eq_comm (a := x)]
    · rcases hg with hg | hg <;> simp [hg]
    · simp [hw]
  · simp [stepOut_eq_none_of_rowNo_ne hi h15 h, h15]

/-- Settles O41: row 15 sets `out_valid` in its output case, and no other edge leaves it set. -/
theorem outputIsValidExactlyAfterRunStep : Obligations.OutputIsValidExactlyAfterRunStep := by
  intro i s t hi h
  by_cases h15 : i.rowNo = some 15
  · obtain ⟨c, d, rfl⟩ := rowNo_eq_15_iff.mp h15
    rcases exec_runStep_cases c d s with ⟨sd, k, b, hg, hw, he⟩ | ⟨hg, he⟩ | ⟨-, hw, he⟩ <;> rw [he] at h <;> cases h
    · simp [Instr.rowNo, hg, hw]
    · rcases hg with hg | hg <;> simp [hg]
    · simp [hw]
  · simp [outValid_eq_false_of_rowNo_ne hi h15 h, h15]

end Sys2Proof.Machine

/-! # The host word's numbers, and the concrete generators (30_encoding.md R52, R54; 40_keystream_generator.md R64) -/

namespace Sys2Proof.Machine

/-- Appending low bits adds their number below the high ones. -/
theorem append_toNat {m n : Nat} (a : BitVec m) (b : BitVec n) : (a ++ b).toNat = a.toNat * 2 ^ n + b.toNat := by
  rw [BitVec.toNat_append, ← Nat.shiftLeft_add_eq_or_of_lt b.isLt, Nat.shiftLeft_eq]

/-- The number of a host word (R52). -/
theorem packWord_toNat (r e : Bit) (c d : Byte) :
    (packWord r e c d).toNat = r.toNat * 2 ^ 17 + e.toNat * 2 ^ 16 + c.toNat * 2 ^ 8 + d.toNat := by
  simp only [packWord, append_toNat]
  ring

/-- Settles O8: the number of a packed word, the fields of any word, and the two printed words. -/
theorem hostWordIsItsFourFields : Obligations.HostWordIsItsFourFields :=
  ⟨packWord_toNat, packWord_fields, rfl, rfl⟩

/-- The data byte is the last byte of the host word, unsigned and unextended (R52, R54). -/
theorem dOf_toNat (w : HostWord) : (dOf w).toNat = w.toNat % 256 := by
  simp [dOf]

/-- Settles O11: the operand's number, row 12 at the first edge of a window, and a word for every seed and data byte. -/
theorem dataOperandIsTheWholeDataByte : Obligations.DataOperandIsTheWholeDataByte := by
  refine ⟨dOf_toNat, fun w s hf hp h0 hw => ?_, fun b d => ?_⟩
  · exact ⟨_, edge_of_selects hf (.runLatch hp hw h0), rfl, hf⟩
  · by_cases hb : b = 0xFF
    · exact ⟨packWord 1 1 0x00 d, quiet_packWord d (by decide), dOf_packWord _ _ _ _, fun hne => absurd hb hne⟩
    · exact ⟨packWord 1 1 b d, quiet_packWord d hb, dOf_packWord _ _ _ _, fun _ => cOf_packWord _ _ _ _⟩

/-- `n` steps of a concrete generator from the state after a load and `k` steps (R64). -/
theorem Generator.run_sigma {Sigma : Type} (G : Generator Sigma) (sd : Byte) (n k : Nat) :
    G.run n (G.sigma sd k) = ((List.range' k n).map (G.keystream sd), G.sigma sd (k + n)) := by
  induction n generalizing k with
  | zero => rfl
  | succ n ih =>
    have hnext : (G.step (G.sigma sd k)).1 = G.sigma sd (k + 1) := rfl
    simp [Generator.run, hnext, ih, List.range'_succ, Generator.keystream, Nat.add_assoc, Nat.add_comm 1 n]

/-- Settles O6: a run from a load by `Generator.run_sigma`, and one step, which answers on a load only. -/
theorem abstractGeneratorRefinesEveryConcreteOne : Obligations.AbstractGeneratorRefinesEveryConcreteOne := by
  refine fun Sigma G hks => ⟨fun sd n => ?_, fun g g' b x hnext hx => ?_⟩
  · have hrun : G.run n (G.load sd) = _ := G.run_sigma sd n 0
    rw [hrun, funext (hks sd), List.range_eq_range', Nat.zero_add]
  · obtain ⟨sd, k, rfl, rfl, rfl⟩ := genNext_eq_some.mp hnext
    cases hx
    exact ⟨hks sd k, rfl⟩

end Sys2Proof.Machine

/-! # The invariant (10_state.md sections 2 and 4, 41_protocol_controller.md section 5)

A misuse row keeps the invariant whatever the phase; of the other rows, `RUN_STEP` alone shows an output, so the rest leave
both output bits clear and are left with what the invariant says of the generator and the counters. -/

namespace Sys2Proof.Machine

/-- The invariant does not speak of the host's schedule or the draw counter. -/
theorem Inv.of_free {s : State} (hi : Inv s) (l : List HostWord) (n : Nat) :
    Inv { s with schedule := l, draws := n } :=
  ⟨hi.gen, hi.seedCnt, hi.clrCnt, hi.winData, hi.rstCnt, hi.output, hi.stepOut, hi.noUndefRead⟩

/-- The invariant of a state without a misuse that shows no output. -/
theorem inv_of_silent {s : State} (hf : s.fault = none) (hv : s.outValid = false) (ho : s.stepOut = none)
    (hgen : GenFits s.phase s.gen) (hseed : s.phase = .seedLoading → s.seedCnt < Config.SEED_SETTLE)
    (hclr : s.phase = .clearing → s.clrCnt < Config.CLEAR_SETTLE)
    (hwin : s.phase = .running → s.winCnt ≠ 0 → s.winData.isSome = true)
    (hrst : s.phase ≠ .idleReset → s.rstCnt = 0) : Inv s where
  gen := hgen
  seedCnt := hseed
  clrCnt := hclr
  winData := hwin
  rstCnt := hrst
  output := by simp [hv]
  stepOut := by simp [hv, ho]
  noUndefRead := by simp [hf]

/-- Settles O36: at power-on the phase is `IDLE_RESET`, in which the invariant asks for `UNDEF` and nothing else. -/
theorem invariantHoldsAtReset : Obligations.InvariantHoldsAtReset :=
  ⟨inv_of_silent rfl rfl rfl rfl nofun nofun nofun fun _ => rfl,
    fun _ _ _ _ => inv_of_silent rfl rfl rfl rfl nofun nofun nofun fun _ => rfl⟩

/-- Recording a misuse that is no `M8` keeps the invariant. -/
theorem inv_raise {s : State} (hi : Inv s) (hf : s.fault = none) {m : Misuse} (hm : ∀ f, m ≠ .undefRead f) :
    Inv (raise m (beginEdge s)) where
  gen := hi.gen
  seedCnt := hi.seedCnt
  clrCnt := hi.clrCnt
  winData := hi.winData
  rstCnt := hi.rstCnt
  output := nofun
  stepOut := rfl
  noUndefRead := by simpa [hf] using hm

/-- A reset edge keeps the invariant: it leaves `IDLE_RESET` and `UNDEF` (R77). -/
theorem inv_resetEdge {s : State} (hf : s.fault = none) : Inv (resetEdge (beginEdge s)) :=
  inv_of_silent hf rfl rfl rfl nofun nofun nofun fun h => absurd rfl h

/-- An edge of the seed settle keeps the invariant: the load is usable, and the count stays below the settle (R22, R85). -/
theorem inv_loadSettle {s : State} (hi : Inv s) (hf : s.fault = none) (hp : s.phase = .seedLoading) :
    Inv (loadSettle Config.SEED_SETTLE (beginEdge s)) := by
  have hgen := hi.gen
  rw [hp] at hgen
  obtain ⟨sd, hu, hg⟩ := hgen
  have hrst : s.rstCnt = 0 := hi.rstCnt (by simp [hp])
  rcases loadSettle_cases Config.SEED_SETTLE (beginEdge s) with ⟨-, h⟩ | ⟨hn, h⟩ <;> rw [h]
  · exact inv_of_silent hf rfl rfl ⟨sd, 0, hu, hg⟩ nofun nofun (fun _ h0 => absurd rfl h0) fun _ => hrst
  · have hlt := hi.seedCnt hp
    refine inv_of_silent hf rfl rfl ?_ (fun _ => ?_) (by simp [hp]) (by simp [hp]) fun _ => hrst
    · simp only [beginEdge_phase, beginEdge_gen, hp]; exact ⟨sd, hu, hg⟩
    · exact Nat.lt_of_le_of_ne hlt hn

/-- An edge of the clear settle keeps the invariant (R23, R88). -/
theorem inv_clearSettle {s : State} (hi : Inv s) (hf : s.fault = none) (hp : s.phase = .clearing) :
    Inv (clearSettle Config.CLEAR_SETTLE (beginEdge s)) := by
  have hg := hi.gen
  rw [hp] at hg
  have hrst : s.rstCnt = 0 := hi.rstCnt (by simp [hp])
  rcases clearSettle_cases Config.CLEAR_SETTLE (beginEdge s) with ⟨-, h⟩ | ⟨hn, h⟩ <;> rw [h]
  · exact inv_of_silent hf rfl rfl (.inr hg) nofun nofun nofun fun _ => hrst
  · have hlt := hi.clrCnt hp
    refine inv_of_silent hf rfl rfl ?_ (by simp [hp]) (fun _ => ?_) (by simp [hp]) fun _ => hrst
    · simpa only [beginEdge_phase, beginEdge_gen, hp] using hg
    · exact Nat.lt_of_le_of_ne hlt hn

/-- In `RUNNING` the generator holds a usable load (R34). -/
theorem Inv.loaded_of_running {s : State} (hi : Inv s) (hp : s.phase = .running) :
    ∃ sd k, usableSeed sd = true ∧ s.gen = .loaded sd k := by
  have hgen := hi.gen
  rwa [hp] at hgen

/-- What a word selects keeps the invariant. -/
theorem inv_exec_of_selects {s t : State} {w : HostWord} {i : Instr} (hi : Inv s) (hf : s.fault = none)
    (hsel : Selects s.decodeCtx w i) (h : exec i s = .next t) : Inv t := by
  cases hsel with
  | enaLow | releaseShort | releaseCtrl | seedFf | loadFf | clearBad => cases h; exact inv_raise hi hf nofun
  | rstEdge => cases h; exact inv_resetEdge hf
  | release hp =>
    have hg := hi.gen
    rw [show s.phase = .idleReset from hp] at hg
    cases h
    exact inv_of_silent hf rfl rfl (.inl hg) nofun nofun nofun fun _ => rfl
  | awaitNormal =>
    cases h
    exact inv_of_silent hf rfl rfl hi.gen hi.seedCnt hi.clrCnt hi.winData hi.rstCnt
  | seed hp hw hu =>
    have hrst : s.rstCnt = 0 := hi.rstCnt (by simp [show s.phase = .awaitSeed from hp])
    cases h
    exact inv_of_silent hf rfl rfl ⟨_, hu, rfl⟩ (fun _ => seedSettle_pos) nofun nofun fun _ => hrst
  | loadTick hp => cases h; exact inv_loadSettle hi hf hp
  | runReset hp =>
    have hrst : s.rstCnt = 0 := hi.rstCnt (by simp [show s.phase = .running from hp])
    cases h
    exact inv_of_silent hf rfl rfl (by rfl) nofun (fun _ => clearSettle_pos) nofun fun _ => hrst
  | runLatch hp =>
    cases h
    exact inv_of_silent hf rfl rfl hi.gen hi.seedCnt hi.clrCnt (fun _ _ => rfl) hi.rstCnt
  | runUnstable hp hw h0 =>
    obtain ⟨b, hb⟩ := Option.isSome_iff_exists.mp (hi.winData hp h0)
    rw [exec_runUnstable_of_written _ _ hb] at h
    cases h
    exact inv_raise hi hf nofun
  | runTick hp hw h0 h7 hd =>
    have hwritten : s.winData.isSome = true := hi.winData hp h0
    cases h
    exact inv_of_silent hf rfl rfl hi.gen hi.seedCnt hi.clrCnt (fun _ _ => hwritten) hi.rstCnt
  | runStep hp hw h7 hd =>
    obtain ⟨sd, k, hu, hg⟩ := hi.loaded_of_running hp
    rw [exec_runStep_of_loaded _ _ hg hd] at h
    cases h
    have hphase : s.phase = .running := hp
    exact { gen := by simp only [beginEdge_phase, hphase]; exact ⟨sd, k + 1, hu, rfl⟩
            seedCnt := by simp [hphase]
            clrCnt := by simp [hphase]
            winData := fun _ h0 => absurd rfl h0
            rstCnt := hi.rstCnt
            output := fun _ => ⟨hphase, rfl, rfl, hf⟩
            stepOut := rfl
            noUndefRead := by simp [hf] }
  | clearTick hp => cases h; exact inv_clearSettle hi hf hp

/-- Every edge keeps the invariant. -/
theorem inv_edge {s t : State} {w : HostWord} (hi : Inv s) (h : edge w s = .next t) : Inv t := by
  cases hf : s.fault with
  | none => rw [edge_of_good w hf] at h; exact inv_exec_of_selects hi hf (selects_decode _ w) h
  | some m => rw [edge_of_fault w hf] at h; cases h; exact hi

/-- Settles O37: a step is an edge on a state that differs in the schedule and the draw counter. -/
theorem everyStepKeepsTheInvariant : Obligations.EveryStepKeepsTheInvariant := by
  intro s t hi h
  obtain ⟨w, rest, -, he⟩ := edge_of_step h
  exact inv_edge (hi.of_free rest _) he

end Sys2Proof.Machine

/-! # Phases, and what the two input bytes reach (41_protocol_controller.md section 5, 10_state.md section 1)

Two edges of one row differ in their input bytes only, and a row either ignores a byte or records it in a misuse. -/

namespace Sys2Proof.Machine

/-- An edge that leaves no misuse has run the row that its word selects. -/
theorem exec_of_edge_of_good {w : HostWord} {s t : State} (h : edge w s = .next t) (hf : t.fault = none) :
    s.fault = none ∧ exec (decode s.decodeCtx w) s = .next t := by
  cases hs : s.fault with
  | none => rw [edge_of_good w hs] at h; exact ⟨rfl, h⟩
  | some m => rw [edge_of_fault w hs] at h; cases h; rw [hf] at hs; cases hs

/-- Where the seed settle goes (R85). -/
theorem loadSettle_phase (n : Nat) {s : State} (hp : s.phase = .seedLoading) :
    (loadSettle n s).phase = if s.seedCnt + 1 = n then .running else .seedLoading := by
  rcases loadSettle_cases n s with ⟨hn, h⟩ | ⟨hn, h⟩ <;> rw [h]
  · rw [if_pos hn]
  · rw [if_neg hn]; exact hp

/-- Where the clear settle goes (R88). -/
theorem clearSettle_phase (n : Nat) {s : State} (hp : s.phase = .clearing) :
    (clearSettle n s).phase = if s.clrCnt + 1 = n then .awaitSeed else .clearing := by
  rcases clearSettle_cases n s with ⟨hn, h⟩ | ⟨hn, h⟩ <;> rw [h]
  · rw [if_pos hn]
  · rw [if_neg hn]; exact hp

/-- `RUN_STEP` keeps the phase in each of its cases (R97). -/
theorem exec_runStep_phase {c d : Byte} {s t : State} (h : exec (.runStep c d) s = .next t) : t.phase = s.phase := by
  rcases exec_runStep_cases c d s with ⟨sd, k, b, -, -, he⟩ | ⟨-, he⟩ | ⟨-, -, he⟩ <;> rw [he] at h <;> cases h <;> rfl

/-- Settles O43: one case for each row; the misuse rows leave a misuse. -/
theorem phaseTransitionsAreExactlyTheTable : Obligations.PhaseTransitionsAreExactlyTheTable := by
  intro w s t h hf
  obtain ⟨-, hx⟩ := exec_of_edge_of_good h hf
  have hsel := selects_decode s.decodeCtx w
  generalize decode s.decodeCtx w = i at hx hsel
  cases hsel with
  | enaLow | releaseShort | releaseCtrl | seedFf | loadFf | clearBad => cases hx; cases hf
  | runUnstable =>
    obtain ⟨m, he⟩ := exec_runUnstable_eq_raise (cOf w) (dOf w) s
    rw [he] at hx; cases hx; cases hf
  | rstEdge hw => cases hx; exact .inl ⟨hw, rfl⟩
  | release hp hw hr => cases hx; exact .inr ⟨hw.1, .inl ⟨hp, hr, hw.2, rfl⟩⟩
  | awaitNormal hp hw => cases hx; exact .inr ⟨hw.1, .inr (.inl ⟨hp, hw.2, hp⟩)⟩
  | seed hp hw hu =>
    obtain ⟨hn, hff⟩ := usableSeed_iff_ne.mp hu
    cases hx
    exact .inr ⟨hw, .inr (.inr (.inl ⟨hp, hn, hff, rfl⟩))⟩
  | loadTick hp hw =>
    cases hx
    exact .inr ⟨hw.1, .inr (.inr (.inr (.inl ⟨hp, hw.2, loadSettle_phase _ hp⟩)))⟩
  | runLatch hp hw | runTick hp hw =>
    cases hx
    exact .inr ⟨hw.1, .inr (.inr (.inr (.inr (.inl ⟨hp, hw.2, hp⟩))))⟩
  | runStep hp hw =>
    exact .inr ⟨hw.1, .inr (.inr (.inr (.inr (.inl ⟨hp, hw.2, (exec_runStep_phase hx).trans hp⟩))))⟩
  | runReset hp hw hc => cases hx; exact .inr ⟨hw, .inr (.inr (.inr (.inr (.inr (.inl ⟨hp, hc, rfl⟩)))))⟩
  | clearTick hp hw =>
    cases hx
    exact .inr ⟨hw.1, .inr (.inr (.inr (.inr (.inr (.inr ⟨hp, hw.2, clearSettle_phase _ hp⟩)))))⟩

/-- Two answers that a host cannot tell apart. -/
def SameAnswer (a b : Result) : Prop := ∃ t t', a = .next t ∧ b = .next t' ∧ SameButRecord t t'

/-- An instruction is not told apart from itself. -/
theorem sameAnswer_exec (i : Instr) (s : State) : SameAnswer (exec i s) (exec i s) := by
  obtain ⟨t, ht⟩ := exec_answers i s
  exact ⟨t, t, ht, ht, .refl t⟩

/-- Two misuses with one code are not told apart. -/
theorem sameAnswer_raise {a b : Result} {m m' : Misuse} {s : State} (ha : a = .next (raise m s))
    (hb : b = .next (raise m' s)) (hm : m.code = m'.code) : SameAnswer a b :=
  ⟨_, _, ha, hb, sameButRecord_raise s hm⟩

/-- Settles O44: outside `RUNNING` the two words select one row, which ignores the data byte or records it. -/
theorem dataByteHasNoEffectOutsideRunning : Obligations.DataByteHasNoEffectOutsideRunning := by
  intro s w w' hrun hr he hc
  change SameAnswer (edge w s) (edge w' s)
  cases hf : s.fault with
  | some m => rw [edge_of_fault w hf, edge_of_fault w' hf]; exact ⟨s, s, rfl, rfl, .refl s⟩
  | none =>
    have hlive (hw : Live w) : Live w' := ⟨he ▸ hw.1, hr ▸ hw.2⟩
    have hnormal (hw : NormalEdge w) : NormalEdge w' := ⟨hlive hw.1, hc ▸ hw.2⟩
    have hquiet (hw : Quiet w) : Quiet w' := ⟨hlive hw.1, hc ▸ hw.2⟩
    have hsel := selects_decode s.decodeCtx w
    rw [edge_of_good w hf]
    generalize decode s.decodeCtx w = i at hsel
    cases hsel with
    | runReset hp | runLatch hp | runUnstable hp | runTick hp | runStep hp => exact absurd hp hrun
    | enaLow h => rw [edge_of_selects hf (.enaLow (he ▸ h))]; exact sameAnswer_raise rfl rfl rfl
    | rstEdge hw => rw [edge_of_selects hf (.rstEdge ⟨he ▸ hw.1, hr ▸ hw.2⟩)]; exact sameAnswer_exec _ s
    | releaseShort hp hw h => rw [edge_of_selects hf (.releaseShort hp (hlive hw) h)]; exact sameAnswer_raise rfl rfl rfl
    | releaseCtrl hp hw h hn =>
      rw [edge_of_selects hf (.releaseCtrl hp (hlive hw) h (hc ▸ hn))]; exact sameAnswer_raise rfl rfl rfl
    | release hp hw h => rw [edge_of_selects hf (.release hp (hnormal hw) h)]; exact sameAnswer_exec _ s
    | awaitNormal hp hw => rw [edge_of_selects hf (.awaitNormal hp (hnormal hw))]; exact sameAnswer_exec _ s
    | seedFf hp hw h => rw [edge_of_selects hf (.seedFf hp (hlive hw) (hc ▸ h))]; exact sameAnswer_raise rfl rfl rfl
    | seed hp hw hu =>
      rw [edge_of_selects hf (.seed hp (hlive hw) (hc ▸ hu)), ← hc]; exact sameAnswer_exec _ s
    | loadFf hp hw h => rw [edge_of_selects hf (.loadFf hp (hlive hw) (hc ▸ h))]; exact sameAnswer_raise rfl rfl rfl
    | loadTick hp hw => rw [edge_of_selects hf (.loadTick hp (hquiet hw))]; exact sameAnswer_exec _ s
    | clearBad hp hw hn => rw [edge_of_selects hf (.clearBad hp (hlive hw) (hc ▸ hn))]; exact sameAnswer_raise rfl rfl rfl
    | clearTick hp hw => rw [edge_of_selects hf (.clearTick hp (hnormal hw))]; exact sameAnswer_exec _ s

/-- `RUN_STEP` steps the generator or keeps it (R97). -/
theorem exec_runStep_gen {c d : Byte} {s t : State} (h : exec (.runStep c d) s = .next t) :
    t.gen = s.gen ∨ ∃ sd k, s.gen = .loaded sd k ∧ t.gen = .loaded sd (k + 1) := by
  rcases exec_runStep_cases c d s with ⟨sd, k, b, hg, -, he⟩ | ⟨-, he⟩ | ⟨-, -, he⟩ <;> rw [he] at h <;> cases h
  · exact .inr ⟨sd, k, hg, rfl⟩
  · exact .inl rfl
  · exact .inl rfl

/-- Two `RUN_UNSTABLE` edges record misuses with one code (R95; log 17). -/
theorem exec_runUnstable_same_code (c c' d : Byte) (s : State) : ∃ m m',
    exec (.runUnstable c d) s = .next (raise m (beginEdge s)) ∧
    exec (.runUnstable c' d) s = .next (raise m' (beginEdge s)) ∧ m.code = m'.code := by
  cases hw : s.winData with
  | none => exact ⟨_, _, exec_runUnstable_of_unwritten c d hw, exec_runUnstable_of_unwritten c' d hw, rfl⟩
  | some b => exact ⟨_, _, exec_runUnstable_of_written c d hw, exec_runUnstable_of_written c' d hw, rfl⟩

/-- Settles O45: the window decides the row of the two words, and the row ignores the control byte or records it. -/
theorem controlByteHasNoEffectInRunning : Obligations.ControlByteHasNoEffectInRunning := by
  intro s w w' hp hw hw' hd
  cases hf : s.fault with
  | some m => exact ⟨s, s, edge_of_fault w hf, edge_of_fault w' hf, .refl s, hp, .inl rfl⟩
  | none =>
    by_cases h0 : s.winCnt = 0
    · rw [edge_of_selects hf (.runLatch hp hw h0), edge_of_selects hf (.runLatch hp hw' h0), hd]
      exact ⟨_, _, rfl, rfl, .refl _, hp, .inl rfl⟩
    · by_cases hdat : s.winData = some (dOf w)
      · by_cases h7 : s.winCnt = 7
        · rw [edge_of_selects hf (.runStep hp hw h7 hdat), edge_of_selects hf (.runStep hp hw' h7 (hd ▸ hdat))]
          obtain ⟨t, ht⟩ := exec_answers (.runStep (cOf w) (dOf w)) s
          exact ⟨t, t, ht, ht, .refl t, (exec_runStep_phase ht).trans hp, exec_runStep_gen ht⟩
        · rw [edge_of_selects hf (.runTick hp hw h0 h7 hdat), edge_of_selects hf (.runTick hp hw' h0 h7 (hd ▸ hdat))]
          exact ⟨_, _, rfl, rfl, .refl _, hp, .inl rfl⟩
      · rw [edge_of_selects hf (.runUnstable hp hw h0 hdat), edge_of_selects hf (.runUnstable hp hw' h0 (hd ▸ hdat)),
          hd]
        obtain ⟨m, m', he, he', hm⟩ := exec_runUnstable_same_code (cOf w) (cOf w') (dOf w') s
        exact ⟨_, _, he, he', sameButRecord_raise _ hm, hp, .inl rfl⟩

end Sys2Proof.Machine

/-! # Runs of edges (70_reset_and_hazards.md)

A run of the machine and a run of a schedule both drive a list of words, and differ in what the host's schedule and the draw
counter hold at each edge, which no rule reads but a reset edge. `Drives` is what they share, and the settles, the window and the
reset pulse are counted once, along it. -/

namespace Sys2Proof.Machine

/-- The words are driven one after the other, whatever the schedule and the draw counter hold at each edge. -/
inductive Drives : List HostWord → State → State → Prop
  | nil (s : State) : Drives [] s s
  | cons {w : HostWord} {ws : List HostWord} {s t u : State} {l : List HostWord} {n : Nat}
      (hedge : edge w { s with schedule := l, draws := n } = .next t) (hrest : Drives ws t u) : Drives (w :: ws) s u

/-- Steps of the machine drive the words that its schedule begins with (R49, R131). -/
theorem exists_stepN_drives {ws rest : List HostWord} {s : State} (hs : s.schedule = ws ++ rest) :
    ∃ t, stepN ws.length s = .next t ∧ Drives ws s t ∧ t.schedule = rest := by
  induction ws generalizing s with
  | nil => exact ⟨s, rfl, .nil s, hs⟩
  | cons w ws ih =>
    obtain ⟨t, ht⟩ := edge_answers w { s with schedule := ws ++ rest, draws := s.draws + 1 }
    obtain ⟨u, hu, hd, hr⟩ := ih (edge_keeps_schedule ht).1
    exact ⟨u, by rw [List.length_cons, stepN_succ_of_next _ ((step_of_schedule hs).trans ht), hu], .cons ht hd, hr⟩

/-- The edges of a schedule drive their words, and read nothing (R61). -/
theorem exists_runSchedule_drives (ws : List HostWord) (x : Run) :
    ∃ t, runSchedule (ws.map .edge) x = .next { x with state := t } ∧ Drives ws x.state t := by
  induction ws generalizing x with
  | nil => exact ⟨x.state, rfl, .nil _⟩
  | cons w ws ih =>
    obtain ⟨t, ht⟩ := edge_answers w { x.state with schedule := x.state.schedule.tail, draws := x.state.draws + 1 }
    obtain ⟨u, hu, hd⟩ := ih { x with state := t }
    exact ⟨u, by rw [List.map_cons, runSchedule_cons_of_next _ (runStmt_edge x w ht), hu], .cons ht hd⟩

/-- Driving one list after another. -/
theorem Drives.of_append {a b : List HostWord} {s u : State} (h : Drives (a ++ b) s u) :
    ∃ t, Drives a s t ∧ Drives b t u := by
  induction a generalizing s with
  | nil => exact ⟨s, .nil s, h⟩
  | cons w a ih =>
    cases h with
    | cons he hrest =>
      obtain ⟨t, ha, hb⟩ := ih hrest
      exact ⟨t, .cons he ha, hb⟩

/-- Driving a word and then the others, where no misuse was recorded: first what the word selects runs. -/
theorem Drives.exec_of_cons {w : HostWord} {ws : List HostWord} {s u : State} {i : Instr} (h : Drives (w :: ws) s u)
    (hf : s.fault = none) (hsel : Selects s.decodeCtx w i) :
    ∃ l n t, exec i { s with schedule := l, draws := n } = .next t ∧ Drives ws t u := by
  cases h with
  | @cons _ _ _ t _ l n he hrest =>
    exact ⟨l, n, t, (edge_of_selects (s := { s with schedule := l, draws := n }) hf hsel).symm.trans he, hrest⟩

/-- Driving one word, where no misuse was recorded. -/
theorem Drives.exec_of_singleton {w : HostWord} {s u : State} {i : Instr} (h : Drives [w] s u) (hf : s.fault = none)
    (hsel : Selects s.decodeCtx w i) : ∃ l n, exec i { s with schedule := l, draws := n } = .next u := by
  obtain ⟨l, n, t, he, hrest⟩ := h.exec_of_cons hf hsel
  cases hrest
  exact ⟨l, n, he⟩

/-- The induction along driven words: a property of the record that holds at a count, and that each of the words moves to
the next count, holds at the count after all of them. -/
theorem Drives.count_from {P : Nat → Record → Prop} {Q : HostWord → Prop} {N : Nat}
    (hstep : ∀ {n : Nat} {s t : State} {w : HostWord}, n < N → P n s.record → Q w → edge w s = .next t →
      P (n + 1) t.record)
    {ws : List HostWord} {s t : State} (h : Drives ws s t) (hws : ∀ w ∈ ws, Q w) {n : Nat} (hn : n + ws.length ≤ N)
    (h0 : P n s.record) : P (n + ws.length) t.record := by
  induction h generalizing n with
  | nil s => exact h0
  | @cons w ws s t u l m he _ ih =>
    obtain ⟨hw, hws⟩ := List.forall_mem_cons.mp hws
    rw [List.length_cons] at hn ⊢
    have h1 : P (n + 1) t.record := hstep (s := { s with schedule := l, draws := m }) (by omega) h0 hw he
    rw [Nat.add_comm ws.length, ← Nat.add_assoc]
    exact ih hws (by omega) h1

/-- `Drives.count_from` from the count 0. -/
theorem Drives.count {P : Nat → Record → Prop} {Q : HostWord → Prop} {N : Nat} {ws : List HostWord} {s t : State}
    (h : Drives ws s t) (hws : ∀ w ∈ ws, Q w) (hn : ws.length ≤ N) (h0 : P 0 s.record)
    (hstep : ∀ {n : Nat} {s t : State} {w : HostWord}, n < N → P n s.record → Q w → edge w s = .next t →
      P (n + 1) t.record) : P ws.length t.record := by
  have := h.count_from hstep hws (n := 0) (by omega) h0
  rwa [Nat.zero_add] at this

/-! ## The reset pulse (70 section 1) -/

/-- After `n` reset edges in a row, the count having started from `c` (R30, R77). -/
structure Pulsed (c n : Nat) (r : Record) : Prop where
  fault : r.fault = none
  rstCnt : r.rstCnt.val = min (c + n) 3
  inReset : 0 < n → r.phase = .idleReset ∧ r.gen = .undef

/-- One more reset edge of a pulse. -/
theorem Pulsed.succ {c n : Nat} {s t : State} {w : HostWord} (h : Pulsed c n s.record) (hw : ResetEdge w)
    (he : edge w s = .next t) : Pulsed c (n + 1) t.record := by
  rw [edge_of_selects h.fault (.rstEdge hw)] at he
  cases he
  refine ⟨h.fault, ?_, fun _ => ⟨rfl, rfl⟩⟩
  have hc := h.rstCnt
  have hbump := bumpRst_val s.rstCnt
  simp only [State.record, resetEdge_rstCnt, beginEdge_rstCnt] at hc ⊢
  omega

/-- A pulse of reset edges (R30, R77). -/
theorem Drives.pulsed {ws : List HostWord} {s t : State} (h : Drives ws s t) (hf : s.fault = none)
    (hws : ∀ w ∈ ws, ResetEdge w) : Pulsed s.rstCnt.val ws.length t.record := by
  refine h.count hws le_rfl ⟨hf, ?_, nofun⟩ fun _ => Pulsed.succ
  change s.rstCnt.val = min (s.rstCnt.val + 0) 3
  omega

/-- At least 3 reset edges and a release (R118, R119). -/
theorem Drives.afterBoot {ws : List HostWord} {v : HostWord} {s t : State} (h : Drives (ws ++ [v]) s t)
    (hf : s.fault = none) (hlen : 3 ≤ ws.length) (hws : ∀ w ∈ ws, ResetEdge w) (hv : NormalEdge v) : AfterBoot t := by
  obtain ⟨u, hpulse, hrel⟩ := h.of_append
  obtain ⟨hfu, hcnt, hin⟩ := hpulse.pulsed hf hws
  obtain ⟨hp, hg⟩ := hin (by omega)
  have hsat : u.rstCnt.val = min (s.rstCnt.val + ws.length) 3 := hcnt
  have h3 : u.rstCnt = 3 := by omega
  obtain ⟨l, n, he⟩ := hrel.exec_of_singleton hfu (.release hp hv h3)
  cases he
  exact ⟨rfl, hg, rfl, rfl, hfu⟩

/-- Settles O46: the steps drive the pulse and the release. -/
theorem bootReachesAwaitSeed : Obligations.BootReachesAwaitSeed := by
  intro s ws rest v hf hlen hws hv hs
  obtain ⟨t, ht, hd, hr⟩ := exists_stepN_drives (ws := ws ++ [v]) (rest := rest) (s := s) (by simp [hs])
  exact ⟨t, by simpa using ht, hd.afterBoot hf hlen hws hv, hr⟩

/-- Settles O47: after the pulse the count is too low for a release. -/
theorem shortResetIsMisuseM1 : Obligations.ShortResetIsMisuseM1 := by
  intro s ws rest v hf hstart h0 hlen hws hv hs
  obtain ⟨t, ht, hd, -⟩ := exists_stepN_drives (ws := ws ++ [v]) (rest := rest) (s := s) (by simp [hs])
  obtain ⟨u, hpulse, hrel⟩ := hd.of_append
  obtain ⟨hfu, hcnt, hin⟩ := hpulse.pulsed hf hws
  have hcnt' : u.rstCnt.val = ws.length := by
    have hsat : u.rstCnt.val = min (s.rstCnt.val + ws.length) 3 := hcnt
    rw [h0] at hsat
    simpa [hlen.le] using hsat
  have hp : u.phase = .idleReset := by
    cases hpulse with
    | nil => exact hstart.resolve_right fun hne => hne rfl
    | cons => exact (hin (Nat.succ_pos _)).1
  obtain ⟨l, n, he⟩ := hrel.exec_of_singleton hfu (.releaseShort hp hv (show u.rstCnt.val < 3 by omega))
  rw [List.length_append] at ht
  cases he
  refine ⟨_, ht, ?_, hp, hcnt'⟩
  rw [raise_fault, packWord_of_live hv.1 hv.2]
  exact congrArg (fun f => some (f.getD (.resetShort v))) hfu

end Sys2Proof.Machine

/-! # The settles and the window (70_reset_and_hazards.md section 3, 42_byte_combiner.md sections 1 to 3)

What the record holds after `n` edges of each, and the edge that moves it on. -/

namespace Sys2Proof.Machine

/-- After `n` edges of the seed settle of a load `g` (R22, R85). -/
structure SeedSettling (g : GenState) (n : Nat) (r : Record) : Prop where
  fault : r.fault = none
  gen : r.gen = g
  silent : 0 < n → r.outValid = false
  counting : n < Config.SEED_SETTLE → r.phase = .seedLoading ∧ r.seedCnt = n
  settled : n = Config.SEED_SETTLE → r.phase = .running ∧ r.winCnt = 0

/-- One more edge of the seed settle. -/
theorem SeedSettling.succ {g : GenState} {n : Nat} {s t : State} {w : HostWord} (hn : n < Config.SEED_SETTLE)
    (h : SeedSettling g n s.record) (hw : Quiet w) (he : edge w s = .next t) : SeedSettling g (n + 1) t.record := by
  obtain ⟨hp, hcnt⟩ := h.counting hn
  rw [edge_of_selects h.fault (.loadTick hp hw), exec_loadTick] at he
  have hcnt' : (beginEdge s).seedCnt = n := hcnt
  rcases loadSettle_cases Config.SEED_SETTLE (beginEdge s) with ⟨hlast, hs⟩ | ⟨hlast, hs⟩ <;> rw [hs] at he <;> cases he
  · exact ⟨h.fault, h.gen, fun _ => rfl, fun hlt => by omega, fun _ => ⟨rfl, rfl⟩⟩
  · exact ⟨h.fault, h.gen, fun _ => rfl, fun _ => ⟨hp, congrArg (· + 1) hcnt⟩, fun heq => by omega⟩

/-- The seed settle, from its first edge on. -/
theorem Drives.seedSettling {ws : List HostWord} {s t : State} (h : Drives ws s t) (hf : s.fault = none)
    (hp : s.phase = .seedLoading) (h0 : s.seedCnt = 0) (hlen : ws.length ≤ Config.SEED_SETTLE)
    (hws : ∀ w ∈ ws, Quiet w) : SeedSettling s.gen ws.length t.record :=
  h.count hws hlen ⟨hf, rfl, nofun, fun _ => ⟨hp, h0⟩, fun heq => absurd heq (Nat.ne_of_lt seedSettle_pos)⟩ SeedSettling.succ

/-- Settles O48: the steps drive the settle. -/
theorem seedSettleTakesExactlyItsEdges : Obligations.SeedSettleTakesExactlyItsEdges := by
  intro s ws rest hf hp h0 hlen hws hs
  obtain ⟨t, ht, hd, hr⟩ := exists_stepN_drives hs
  have h := hd.seedSettling hf hp h0 hlen hws
  exact ⟨t, ht, h.gen, h.fault, hr, fun hne => h.silent (List.length_pos_of_ne_nil hne), h.settled, h.counting⟩

/-- After `n` edges of the clear settle of a generator `g` (R23, R88). -/
structure ClearSettling (g : GenState) (n : Nat) (r : Record) : Prop where
  fault : r.fault = none
  gen : r.gen = g
  silent : 0 < n → r.outValid = false
  counting : n < Config.CLEAR_SETTLE → r.phase = .clearing ∧ r.clrCnt = n
  settled : n = Config.CLEAR_SETTLE → r.phase = .awaitSeed

/-- One more edge of the clear settle. -/
theorem ClearSettling.succ {g : GenState} {n : Nat} {s t : State} {w : HostWord} (hn : n < Config.CLEAR_SETTLE)
    (h : ClearSettling g n s.record) (hw : NormalEdge w) (he : edge w s = .next t) :
    ClearSettling g (n + 1) t.record := by
  obtain ⟨hp, hcnt⟩ := h.counting hn
  rw [edge_of_selects h.fault (.clearTick hp hw), exec_clearTick] at he
  have hcnt' : (beginEdge s).clrCnt = n := hcnt
  rcases clearSettle_cases Config.CLEAR_SETTLE (beginEdge s) with ⟨hlast, hs⟩ | ⟨hlast, hs⟩ <;> rw [hs] at he <;>
    cases he
  · exact ⟨h.fault, h.gen, fun _ => rfl, fun hlt => by omega, fun _ => rfl⟩
  · exact ⟨h.fault, h.gen, fun _ => rfl, fun _ => ⟨hp, congrArg (· + 1) hcnt⟩, fun heq => by omega⟩

/-- The clear settle, from its first edge on. -/
theorem Drives.clearSettling {ws : List HostWord} {s t : State} (h : Drives ws s t) (hf : s.fault = none)
    (hp : s.phase = .clearing) (h0 : s.clrCnt = 0) (hlen : ws.length ≤ Config.CLEAR_SETTLE)
    (hws : ∀ w ∈ ws, NormalEdge w) : ClearSettling s.gen ws.length t.record :=
  h.count hws hlen ⟨hf, rfl, nofun, fun _ => ⟨hp, h0⟩, fun heq => absurd heq (Nat.ne_of_lt clearSettle_pos)⟩
    ClearSettling.succ

/-- Settles O49: the steps drive the settle. -/
theorem clearSettleTakesExactlyItsEdges : Obligations.ClearSettleTakesExactlyItsEdges := by
  intro s ws rest hf hp h0 hlen hws hs
  obtain ⟨t, ht, hd, hr⟩ := exists_stepN_drives hs
  have h := hd.clearSettling hf hp h0 hlen hws
  exact ⟨t, ht, h.gen, h.fault, hr, fun hne => h.silent (List.length_pos_of_ne_nil hne), h.settled, h.counting⟩

/-- After `n` edges of the window on the data byte `d` with the keystream byte `KS(sd, k)`, entered with `out` in the
output register (R93 to R97). -/
structure InWindow (sd d : Byte) (k : Nat) (out : Option Byte) (n : Nat) (r : Record) : Prop where
  fault : r.fault = none
  phase : r.phase = .running
  winData : 0 < n → r.winData = some d
  silent : 0 < n → n < 8 → r.outValid = false
  counting : n < 8 → r.winCnt.val = n ∧ r.gen = .loaded sd k ∧ r.outReg = out
  output : n = 8 → r.winCnt = 0 ∧ r.gen = .loaded sd (k + 1) ∧ r.outValid = true ∧
    r.outReg = some (d ^^^ Config.KS sd k)

/-- One more edge of a window: its first one latches, its 8th one outputs, and the others count. -/
theorem InWindow.succ {sd d : Byte} {k n : Nat} {out : Option Byte} {s t : State} {w : HostWord} (hn : n < 8)
    (h : InWindow sd d k out n s.record) (hw : Quiet w ∧ dOf w = d) (he : edge w s = .next t) :
    InWindow sd d k out (n + 1) t.record := by
  obtain ⟨hq, rfl⟩ := hw
  obtain ⟨hcnt, hg, ho⟩ := h.counting hn
  have hcnt' : s.winCnt.val = n := hcnt
  have hp : s.phase = .running := h.phase
  by_cases hfirst : n = 0
  · rw [edge_of_selects h.fault (.runLatch hp hq (show s.winCnt = 0 by omega))] at he
    cases he
    subst hfirst
    exact ⟨h.fault, hp, fun _ => rfl, fun _ _ => rfl, fun _ => ⟨rfl, hg, ho⟩, nofun⟩
  · have h0 : s.winCnt ≠ 0 := by omega
    have hd : s.winData = some (dOf w) := h.winData (by omega)
    by_cases hlast : n = 7
    · rw [edge_of_selects h.fault (.runStep hp hq (show s.winCnt = 7 by omega) hd), exec_runStep_of_loaded _ _ hg hd] at he
      cases he
      exact ⟨h.fault, hp, fun _ => hd, fun _ hlt => by omega, fun hlt => by omega, fun _ => ⟨rfl, rfl, rfl, rfl⟩⟩
    · rw [edge_of_selects h.fault (.runTick hp hq h0 (show s.winCnt ≠ 7 by omega) hd)] at he
      cases he
      have hnext : (s.winCnt + 1).val = n + 1 := by rw [Fin.val_add_one_of_lt' (by omega), hcnt']
      exact ⟨h.fault, hp, fun _ => hd, fun _ _ => rfl, fun _ => ⟨hnext, hg, ho⟩, fun heq => by omega⟩

/-- A window, from its first edge on. -/
theorem Drives.inWindow {ws : List HostWord} {s t : State} {sd d : Byte} {k : Nat} (h : Drives ws s t)
    (hf : s.fault = none) (hp : s.phase = .running) (h0 : s.winCnt = 0) (hg : s.gen = .loaded sd k)
    (hlen : ws.length ≤ 8) (hws : ∀ w ∈ ws, Quiet w ∧ dOf w = d) : InWindow sd d k s.outReg ws.length t.record :=
  h.count hws hlen ⟨hf, hp, nofun, nofun, fun _ => ⟨congrArg Fin.val h0, hg, rfl⟩, nofun⟩ InWindow.succ

/-- Settles O50: the steps drive the window. -/
theorem windowOutputsAfterExactlyEightEdges : Obligations.WindowOutputsAfterExactlyEightEdges := by
  intro s ws rest sd d k hf hp h0 hg hne hlen hws hs
  obtain ⟨t, ht, hd, hr⟩ := exists_stepN_drives hs
  have h := hd.inWindow hf hp h0 hg hlen hws
  have hpos := List.length_pos_of_ne_nil hne
  refine ⟨t, ht, h.phase, h.fault, h.winData hpos, hr, fun h8 => ?_, fun hlt => ?_⟩
  · obtain ⟨hc, hgen, hv, ho⟩ := h.output h8
    exact ⟨hv, dataOut_of_outValid hv ho, hc, hgen⟩
  · obtain ⟨hc, hgen, ho⟩ := h.counting hlt
    exact ⟨h.silent hpos hlt, ho, hc, hgen⟩

end Sys2Proof.Machine

/-! # Messages and the round trip (42_byte_combiner.md section 3, 30_encoding.md section 5)

Each pseudo-instruction of a schedule drives a list of words; the message is read back window by window, and combining the
readings with the same keystream again gives the message. -/

namespace Sys2Proof.Machine

/-- At the start of a window, with the next keystream byte `KS(sd, k)`. -/
structure Streaming (sd : Byte) (k : Nat) (s : State) : Prop where
  fault : s.fault = none
  phase : s.phase = .running
  winCnt : s.winCnt = 0
  gen : s.gen = .loaded sd k

/-- Waiting for a seed, without a misuse. -/
structure Awaiting (s : State) : Prop where
  fault : s.fault = none
  phase : s.phase = .awaitSeed

/-- `BYTE d`: one window and its reading (R39, R62). -/
theorem exists_runSchedule_byteStmts {sd : Byte} {k : Nat} {x : Run} (d : Byte) (h : Streaming sd k x.state) :
    ∃ y, runSchedule (byteStmts d) x = .next y ∧ y.result = x.result ++ [d ^^^ Config.KS sd k] ∧
      Streaming sd (k + 1) y.state := by
  obtain ⟨t, ht, hd⟩ := exists_runSchedule_drives (List.replicate 8 (packWord 1 1 0x00 d)) x
  have hwin := hd.inWindow (d := d) h.fault h.phase h.winCnt h.gen (by simp) fun w hw => by
    rw [List.eq_of_mem_replicate hw]
    exact ⟨quiet_packWord d (by decide), dOf_packWord _ _ _ _⟩
  obtain ⟨hc, hg, hv, ho⟩ := hwin.output (List.length_replicate ..)
  have hread := (observationShowsTheOutputRegister t).1 _ hv ho
  rw [List.map_replicate] at ht
  refine ⟨{ state := t.observe.2, result := x.result ++ [t.observe.1] }, ?_, ?_, ?_⟩
  · rw [byteStmts, stmtE, runSchedule_append ht]
    rfl
  · simp [hread]
  · rw [hread]
    exact ⟨hwin.fault, hwin.phase, hc, hg⟩

/-- The bytes that a message is read back as, from the index `k` on. -/
def streamed (sd : Byte) (k : Nat) (ds : List Byte) : List Byte := ds.mapIdx fun j d => d ^^^ Config.KS sd (k + j)

theorem streamed_cons (sd : Byte) (k : Nat) (d : Byte) (ds : List Byte) :
    streamed sd k (d :: ds) = (d ^^^ Config.KS sd k) :: streamed sd (k + 1) ds := by
  simp [streamed, List.mapIdx_cons, Nat.add_assoc, Nat.add_comm 1]

/-- Reading the readings gives the message: the two keystream bytes cancel (R98, R103). -/
@[simp] theorem streamed_streamed (sd : Byte) (k : Nat) (ds : List Byte) :
    streamed sd k (streamed sd k ds) = ds := by
  induction ds generalizing k with
  | nil => rfl
  | cons d ds ih => rw [streamed_cons, streamed_cons, ih, ← combine, ← combine, combine_cancel_right]

@[simp] theorem length_streamed (sd : Byte) (k : Nat) (ds : List Byte) : (streamed sd k ds).length = ds.length :=
  List.length_mapIdx

/-- A message: one `BYTE` after the other (R39). -/
theorem exists_runSchedule_messageStmts {sd : Byte} {k : Nat} {x : Run} (ds : List Byte) (h : Streaming sd k x.state) :
    ∃ y, runSchedule (messageStmts ds) x = .next y ∧ y.result = x.result ++ streamed sd k ds ∧
      Streaming sd (k + ds.length) y.state := by
  induction ds generalizing k x with
  | nil => exact ⟨x, rfl, by simp [streamed], h⟩
  | cons d ds ih =>
    obtain ⟨y, hy, hres, hs⟩ := exists_runSchedule_byteStmts d h
    obtain ⟨z, hz, hres', hs'⟩ := ih hs
    refine ⟨z, ?_, ?_, ?_⟩
    · rw [messageStmts, List.flatMap_cons, runSchedule_append hy]
      exact hz
    · rw [hres', hres, streamed_cons, List.append_assoc, List.singleton_append]
    · rw [List.length_cons, ← Nat.add_assoc, Nat.add_right_comm]
      exact hs'

/-- Settles O51: the message's schedule, from the start of a window on. -/
theorem messageOutputsAreXorWithTheKeystream : Obligations.MessageOutputsAreXorWithTheKeystream := by
  intro ds x sd k hf hp h0 hg
  obtain ⟨y, hy, hres, hs⟩ := exists_runSchedule_messageStmts ds ⟨hf, hp, h0, hg⟩
  exact ⟨y, hy, hres, hs.fault, hs.phase, hs.winCnt, hs.gen⟩

/-- `SEED s`: the seed-accept edge and the settle with the seed still held (R62, R83, R85). -/
theorem exists_runSchedule_seedStmts {sd : Byte} {x : Run} (hu : usableSeed sd = true) (h : Awaiting x.state) :
    ∃ t, runSchedule (seedStmts sd) x = .next { x with state := t } ∧ Streaming sd 0 t := by
  obtain ⟨t, ht, hd⟩ := exists_runSchedule_drives
    (packWord 1 1 sd 0x00 :: List.replicate Config.SEED_SETTLE (packWord 1 1 sd 0x00)) x
  have hff : sd ≠ 0xFF := (usableSeed_iff_ne.mp hu).2
  obtain ⟨l, n, u, he, hrest⟩ := hd.exec_of_cons h.fault
    (.seed h.phase (live_packWord sd 0x00) (by rwa [cOf_packWord]))
  cases he
  have hset := hrest.seedSettling h.fault rfl rfl (by simp) fun w hw => by
    rw [List.eq_of_mem_replicate hw]
    exact quiet_packWord 0x00 hff
  obtain ⟨hp, hc⟩ := hset.settled (List.length_replicate ..)
  rw [List.map_cons, List.map_replicate] at ht
  exact ⟨t, ht, hset.fault, hp, hc, by rw [← cOf_packWord 1 1 sd 0x00]; exact hset.gen⟩

/-- `CLEAR`: the state clear and its settle (R62, R86, R88). -/
theorem exists_runSchedule_clearStmts {x : Run} (hf : x.state.fault = none) (hp : x.state.phase = .running) :
    ∃ t, runSchedule clearStmts x = .next { x with state := t } ∧ Awaiting t := by
  obtain ⟨t, ht, hd⟩ := exists_runSchedule_drives
    (packWord 1 1 0xFF 0x00 :: List.replicate Config.CLEAR_SETTLE (packWord 1 1 0x00 0x00)) x
  obtain ⟨l, n, u, he, hrest⟩ := hd.exec_of_cons hf (.runReset hp (live_packWord 0xFF 0x00) (cOf_packWord _ _ _ _))
  cases he
  have hset := hrest.clearSettling hf rfl rfl (by simp) fun w hw => by
    rw [List.eq_of_mem_replicate hw]
    exact normalEdge_packWord 0x00
  rw [List.map_cons, List.map_replicate] at ht
  exact ⟨t, ht, hset.fault, hset.settled (List.length_replicate ..)⟩

/-- `BOOT`: 3 reset edges and a release (R62, R118). -/
theorem exists_runSchedule_boot {x : Run} (hf : x.state.fault = none) :
    ∃ t, runSchedule boot x = .next { x with state := t } ∧ Awaiting t := by
  obtain ⟨t, ht, hd⟩ := exists_runSchedule_drives
    (List.replicate 3 (packWord 0 1 0x00 0x00) ++ [packWord 1 1 0x00 0x00]) x
  have hboot := hd.afterBoot hf (by simp)
    (fun w hw => by rw [List.eq_of_mem_replicate hw]; exact resetEdge_packWord 0x00 0x00) (normalEdge_packWord 0x00)
  exact ⟨t, ht, hboot.fault, hboot.phase⟩

/-- Seeding and presenting a message (R99). -/
theorem exists_runSchedule_seed_message {sd : Byte} {x : Run} (ds : List Byte) (hu : usableSeed sd = true)
    (h : Awaiting x.state) : ∃ y, runSchedule (seedStmts sd ++ messageStmts ds) x = .next y ∧
      y.result = x.result ++ streamed sd 0 ds ∧ Streaming sd (0 + ds.length) y.state := by
  obtain ⟨t, ht, hs⟩ := exists_runSchedule_seedStmts hu h
  rw [runSchedule_append ht]
  exact exists_runSchedule_messageStmts (x := { x with state := t }) ds hs

/-- Settles O52: both runs stream the keystream of the seed from the index 0, and the two bytes of each place cancel. -/
theorem decryptionOfEncryptionIsTheMessage : Obligations.DecryptionOfEncryptionIsTheMessage := by
  intro sd ds x h1 h2 hf hp
  have hu : usableSeed sd = true := (usableSeed_iff sd).mpr ⟨h1, h2⟩
  obtain ⟨y, hy, hres, hs⟩ := exists_runSchedule_seed_message ds hu ⟨hf, hp⟩
  have hback {pre : List Stmt} {t : State} (hpre : runSchedule pre y = .next { y with state := t }) (ht : Awaiting t) :
      ∃ z, runSchedule (pre ++ seedStmts sd ++ messageStmts (streamed sd 0 ds)) y = .next z ∧
        z.result = y.result ++ ds ∧ z.state.fault = none := by
    obtain ⟨z, hz, hzres, hzs⟩ :=
      exists_runSchedule_seed_message (x := { y with state := t }) (streamed sd 0 ds) hu ht
    exact ⟨z, by rw [List.append_assoc, runSchedule_append hpre, hz], by rw [hzres, streamed_streamed], hzs.fault⟩
  obtain ⟨t, ht, hclear⟩ := exists_runSchedule_clearStmts hs.fault hs.phase
  obtain ⟨t', ht', hboot⟩ := exists_runSchedule_boot hs.fault
  exact ⟨y, streamed sd 0 ds, hy, hres, length_streamed sd 0 ds, hs.fault, hback ht hclear, hback ht' hboot⟩

end Sys2Proof.Machine

/-! # Runs of a schedule and runs of the machine (70_reset_and_hazards.md section 5)

No instruction reads the host's schedule, so an edge does the same with another one, and the two runs go through states that
differ in it alone. -/

namespace Sys2Proof.Machine

/-- The state with another schedule of the host (log 2). -/
def State.withSchedule (l : List HostWord) (s : State) : State := { s with schedule := l }

/-- Clearing the output bits commutes with the schedule. -/
theorem beginEdge_withSchedule (l : List HostWord) (s : State) :
    beginEdge (s.withSchedule l) = (beginEdge s).withSchedule l := rfl

/-- The step of the generator does not read the schedule (R73). -/
theorem stepGen_withSchedule (l : List HostWord) (s : State) :
    stepGen (s.withSchedule l) = (stepGen s).map fun p => (p.1, p.2.withSchedule l) := by
  cases hg : s.gen <;> simp [stepGen, State.withSchedule, genNext, hg]

/-- The seed settle does not read the schedule (R85). -/
theorem loadSettle_withSchedule (n : Nat) (l : List HostWord) (s : State) :
    loadSettle n (s.withSchedule l) = (loadSettle n s).withSchedule l := by
  by_cases h : s.seedCnt + 1 = n <;> simp [loadSettle, State.withSchedule, h]

/-- The clear settle does not read the schedule (R88). -/
theorem clearSettle_withSchedule (n : Nat) (l : List HostWord) (s : State) :
    clearSettle n (s.withSchedule l) = (clearSettle n s).withSchedule l := by
  by_cases h : s.clrCnt + 1 = n <;> simp [clearSettle, State.withSchedule, h]

/-- An instruction does the same with another schedule (log 2). -/
theorem exec_withSchedule {i : Instr} {s t : State} (l : List HostWord) (h : exec i s = .next t) :
    exec i (s.withSchedule l) = .next (t.withSchedule l) := by
  cases i with
  | loadTick c d =>
    rw [exec_loadTick] at h ⊢
    cases h
    rw [beginEdge_withSchedule, loadSettle_withSchedule]
  | clearTick d =>
    rw [exec_clearTick] at h ⊢
    cases h
    rw [beginEdge_withSchedule, clearSettle_withSchedule]
  | runUnstable c d =>
    cases hw : s.winData with
    | none =>
      have hw' : (s.withSchedule l).winData = none := hw
      rw [exec_runUnstable_of_unwritten c d hw] at h
      cases h
      rw [exec_runUnstable_of_unwritten c d hw']
      rfl
    | some b =>
      have hw' : (s.withSchedule l).winData = some b := hw
      rw [exec_runUnstable_of_written c d hw] at h
      cases h
      rw [exec_runUnstable_of_written c d hw']
      rfl
  | runStep c d =>
    have hw : (s.withSchedule l).winData = s.winData := rfl
    simp only [exec, execRunStep, beginEdge_withSchedule, stepGen_withSchedule, hw] at h ⊢
    cases hg : stepGen (beginEdge s) <;> cases hw : s.winData <;> rw [hg, hw] at h <;> cases h <;> rfl
  | genStep =>
    simp only [exec, execGenStep, stepGen_withSchedule] at h ⊢
    cases hg : stepGen s <;> rw [hg] at h <;> cases h <;> rfl
  | _ => cases h; rfl

/-- An edge does the same with another schedule (log 2). -/
theorem edge_withSchedule {w : HostWord} {s t : State} (l : List HostWord) (h : edge w s = .next t) :
    edge w (s.withSchedule l) = .next (t.withSchedule l) := by
  cases hf : s.fault with
  | none =>
    have hf' : (s.withSchedule l).fault = none := hf
    rw [edge_of_good w hf] at h
    rw [edge_of_good w hf']
    exact exec_withSchedule l h
  | some m =>
    have hf' : (s.withSchedule l).fault = some m := hf
    rw [edge_of_fault w hf] at h
    cases h
    rw [edge_of_fault w hf']

/-- The host's run goes on after a next state. -/
theorem run_succ_of_next {M : Host.Core} {s t : M.State} (n : Nat) (h : M.step s = .next t) :
    M.run (n + 1) s = M.run n t := by
  simp [Host.Core.run, h]

/-- The host's run stops at a fault. -/
theorem run_succ_of_fault {M : Host.Core} {s : M.State} {r : M.Fault} (n : Nat) (h : M.step s = .fault r) :
    M.run (n + 1) s = .fault r := by
  simp [Host.Core.run, h]

/-- The machine's own steps stop at a fault. -/
theorem stepN_succ_of_fault {s : State} {f : Fault} (n : Nat) (h : step s = .fault f) :
    stepN (n + 1) s = .fault f := by
  simp [stepN, h]

/-- The host's run of the machine is the machine's own steps (R131). -/
theorem core_run_eq_stepN (n : Nat) (s : State) : Host.Core.run core n s = stepN n s := by
  induction n generalizing s with
  | zero => rfl
  | succ n ih =>
    obtain ⟨hgoes, hends⟩ := stepCompletesWhileAHostWordIsLeft s
    by_cases hs : s.schedule = []
    · exact (run_succ_of_fault (M := core) n (hends hs)).trans (stepN_succ_of_fault n (hends hs)).symm
    · obtain ⟨t, ht, -⟩ := hgoes hs
      exact (run_succ_of_next (M := core) n ht).trans ((ih t).trans (stepN_succ_of_next n ht).symm)

/-- The edges of a schedule, with nothing else left to drive, and the machine on their words reach one state (R131). -/
theorem exists_runSchedule_and_stepN (ws : List HostWord) (s : State) (r : List Byte) (hs : s.schedule = []) :
    ∃ t, runSchedule (ws.map .edge) ⟨s, r⟩ = .next ⟨t, r⟩ ∧
      stepN ws.length { s with schedule := ws } = .next t := by
  induction ws generalizing s with
  | nil => exact ⟨s, rfl, congrArg Host.Outcome.next (by rw [← hs])⟩
  | cons w ws ih =>
    obtain ⟨t, ht⟩ := edge_answers w { s with schedule := s.schedule.tail, draws := s.draws + 1 }
    have hnil : t.schedule = [] := by rw [(edge_keeps_schedule ht).1, hs]; rfl
    obtain ⟨u, hu, hstep⟩ := ih t hnil
    have hfirst : step { s with schedule := w :: ws } = .next { t with schedule := ws } :=
      (step_of_schedule (s := { s with schedule := w :: ws }) rfl).trans (edge_withSchedule ws ht)
    refine ⟨u, ?_, ?_⟩
    · rw [List.map_cons, runSchedule_cons_of_next _ (runStmt_edge ⟨s, r⟩ w ht), hu]
    · rw [List.length_cons, stepN_succ_of_next _ hfirst, hstep]

/-- Settles O53: the two runs reach one state, so each reaches a given state exactly where the other does. -/
theorem scheduleRunsAreRunsOfTheMachine : Obligations.ScheduleRunsAreRunsOfTheMachine := by
  refine ⟨core_run_eq_stepN, fun ws s t r hs => ?_⟩
  obtain ⟨u, hrun, hstep⟩ := exists_runSchedule_and_stepN ws s r hs
  rw [hrun, hstep]
  simp

end Sys2Proof.Machine
